-- ==== Sys2Proof/Word.lean ====
section
/-! DEFINITION. The value types of 00_scope.md rules R9 and R11: words, bytes and byte strings. -/

namespace Sys2Proof

/-- A word: an unsigned 32-bit integer (R9). -/
abbrev Word := BitVec 32

/-- A byte: an unsigned 8-bit integer (R9). -/
abbrev Byte := BitVec 8

/-- A byte string of any length, byte 0 first (R11). -/
abbrev ByteString := List Byte

end Sys2Proof
end

