-- ==== Sys2Proof/Machine/Bytes.lean ====
section
/-! DEFINITION. Byte strings and their packing into words, little-endian throughout (00_scope.md rules
R10 and R11, 20_memory.md rule R82). -/

namespace Sys2Proof.Machine

/-- `rotl(v, n)` for 1 ≤ n ≤ 31 (R10). -/
def rotl (v : Word) (n : Nat) : Word := (v <<< n) ||| (v >>> (32 - n))

/-- Byte k of a word, byte 0 its least significant (R11). -/
def wordByte (w : Word) (k : Nat) : Byte := (w >>> (8 * k)).setWidth 8

/-- `ser32(w)` (R11). -/
def ser32 (w : Word) : ByteString := [wordByte w 0, wordByte w 1, wordByte w 2, wordByte w 3]

/-- The byte view of n words: byte k is byte `k mod 4` of word `k div 4` (R32, R45, R46, R51 to R53). For
sixteen words it is `ser(w0..w15)` (R11). -/
@[irreducible] def bytesOf {n : Nat} (ws : Vector Word n) : Vector Byte (4 * n) :=
  Vector.ofFn fun k => wordByte ws[k.val / 4] (k.val % 4)

/-- `le32(B, i)` (R11). A byte past the end of B counts as zero. No rule reads one. -/
def le32 (B : ByteString) (i : Nat) : Word :=
  B.getD (i + 3) 0 ++ B.getD (i + 2) 0 ++ B.getD (i + 1) 0 ++ B.getD i 0

/-- The n words `le32(B, 0), le32(B, 4), …` of a byte string. -/
@[irreducible] def wordsOf (n : Nat) (B : ByteString) : Vector Word n := Vector.ofFn fun i => le32 B (4 * i.val)

/-- The little-endian value of a byte string, `Σ B[i]·2^(8i)` (R231). -/
def leValue : ByteString → Nat
  | [] => 0
  | b :: B => b.toNat + 2 ^ 8 * leValue B

/-- The n bytes of a number, byte i being `(v >> 8i) mod 256` (R11). -/
def leBytes (n v : Nat) : Vector Byte n := Vector.ofFn fun i => BitVec.ofNat 8 (v >>> (8 * i.val))

/-- `le64(n)` (R11). -/
def le64 (v : Nat) : ByteString := (leBytes 8 v).toList

/-- `zeros(n)` (R11). -/
def zeros (n : Nat) : ByteString := List.replicate n 0

/-- Bytes XORed in pairs, as many as the shorter string has (R191). -/
def xorBytes (S K : ByteString) : ByteString := List.zipWith (· ^^^ ·) S K

end Sys2Proof.Machine
end

