-- ==== Sys2Proof/Syntax.lean ====
section
/-! DEFINITION. The twelve commands (30_encoding.md rule R112), one constructor per row of
spec/opcode_table.json, with the fields each uses. -/

namespace Sys2Proof

/-- A command. A field holds the literal number of rule R115: `rnd` a round count, `nlen` a nonce length
in bytes, `tsz` a tag size in bytes; `ff` is the feedforward bit. `open` and `seal` are words of Lean, so
the three AEAD commands carry the name of their file of the spec. -/
inductive Instr where
  | nop
  | perm (rnd : Nat) (ff : Bool)
  | block
  | setup (rnd nlen : Nat)
  | hchacha
  | crypt
  | setctr
  | setnonce (nlen : Nat)
  | oneshot (rnd nlen : Nat)
  | aeadInit (tsz : Nat)
  | aeadSeal (nlen : Nat)
  | aeadOpen (nlen : Nat)
  deriving DecidableEq, Repr

end Sys2Proof
end

