-- ==== Sys2Proof/WellFormed.lean ====
section
/-! DEFINITION. Which commands have a command word: each field fits the bits rule R111 gives it. A field
that fits but is outside its LEGAL set is well formed: the command's own rule raises the specific fatal
error (30_encoding.md rule R115). -/

namespace Sys2Proof

/-- RND fits bits [15:8] (R111). -/
abbrev rndFits (rnd : Nat) : Prop := rnd < 2 ^ 8

/-- NLEN fits bits [20:16] (R111). -/
abbrev nlenFits (nlen : Nat) : Prop := nlen < 2 ^ 5

/-- TSZ fits bits [28:24] (R111). -/
abbrev tszFits (tsz : Nat) : Prop := tsz < 2 ^ 5

/-- The command has an encoding. -/
def Instr.wellFormed : Instr → Bool
  | .nop => true
  | .perm rnd _ => decide (rndFits rnd)
  | .block => true
  | .setup rnd nlen => decide (rndFits rnd) && decide (nlenFits nlen)
  | .hchacha => true
  | .crypt => true
  | .setctr => true
  | .setnonce nlen => decide (nlenFits nlen)
  | .oneshot rnd nlen => decide (rndFits rnd) && decide (nlenFits nlen)
  | .aeadInit tsz => decide (tszFits tsz)
  | .aeadSeal nlen => decide (nlenFits nlen)
  | .aeadOpen nlen => decide (nlenFits nlen)

end Sys2Proof
end

