-- ==== Sys2Proof/Decode.lean ====
section
/-! DEFINITION. Decoding and encoding of the command word (30_encoding.md rules R110 to R115). -/

namespace Sys2Proof

/-- The field `v[hi:lo]` of a word, as a number (R9). -/
def field (hi lo : Nat) (w : Word) : Nat := (w.extractLsb' lo (hi + 1 - lo)).toNat

/-- OP, bits [7:0] (R111). -/
def fieldOp (w : Word) : Nat := field 7 0 w
/-- RND, bits [15:8] (R111). -/
def fieldRnd (w : Word) : Nat := field 15 8 w
/-- NLEN, bits [20:16] (R111). -/
def fieldNlen (w : Word) : Nat := field 20 16 w
/-- FF, bit [21] (R111). -/
def fieldFf (w : Word) : Bool := w.getLsbD 21
/-- TSZ, bits [28:24] (R111). -/
def fieldTsz (w : Word) : Nat := field 28 24 w

/-- One row of rule R113: a word decodes as this row iff `(w & mask) = match`. `read` pulls the row's
fields out of the word. -/
structure Row where
  value : Word
  mask  : Word
  read  : Word → Instr

/-- The table of rule R113, in its order. -/
def opcodeRows : List Row := [
  ⟨0x00000000, 0xFFFFFFFF, fun _ => .nop⟩,
  ⟨0x00000001, 0xFFDF00FF, fun w => .perm (fieldRnd w) (fieldFf w)⟩,
  ⟨0x00000002, 0xFFFFFFFF, fun _ => .block⟩,
  ⟨0x00000003, 0xFFE000FF, fun w => .setup (fieldRnd w) (fieldNlen w)⟩,
  ⟨0x00000004, 0xFFFFFFFF, fun _ => .hchacha⟩,
  ⟨0x00000005, 0xFFFFFFFF, fun _ => .crypt⟩,
  ⟨0x00000006, 0xFFFFFFFF, fun _ => .setctr⟩,
  ⟨0x00000007, 0xFFE0FFFF, fun w => .setnonce (fieldNlen w)⟩,
  ⟨0x00000008, 0xFFE000FF, fun w => .oneshot (fieldRnd w) (fieldNlen w)⟩,
  ⟨0x00000009, 0xE0FFFFFF, fun w => .aeadInit (fieldTsz w)⟩,
  ⟨0x0000000A, 0xFFE0FFFF, fun w => .aeadSeal (fieldNlen w)⟩,
  ⟨0x0000000B, 0xFFE0FFFF, fun w => .aeadOpen (fieldNlen w)⟩]

/-- Why a word is illegal: the two cases of rule R114. -/
inductive IllegalWord where
  /-- OP is 0x0C to 0xFF. -/
  | reservedOpcode
  /-- A known OP with an unused field or a reserved bit not 0. -/
  | unusedBits
  deriving DecidableEq, Repr

/-- The row a word matches, if any (R113). -/
def matchingRow (w : Word) : Option Row := opcodeRows.find? fun r => w &&& r.mask == r.value

/-- Decoding of any 32-bit word (R113, R114). -/
def decode (w : Word) : Except IllegalWord Instr :=
  match matchingRow w with
  | some r => .ok (r.read w)
  | none => .error (if fieldOp w < 0x0C then .unusedBits else .reservedOpcode)

/-- A field of a register or of a command word: v from bit lo on, zeros elsewhere. -/
def place {n : Nat} (lo : Nat) (v : BitVec n) : Word := v.setWidth 32 <<< lo

/-- A command word from its fields, with bits [23:22] and [31:29] zero (R111). -/
def packWord (op rnd nlen : Nat) (ff : Bool) (tsz : Nat) : Word :=
  place 0 (BitVec.ofNat 8 op) ||| place 8 (BitVec.ofNat 8 rnd) ||| place 16 (BitVec.ofNat 5 nlen)
    ||| place 21 (BitVec.ofBool ff) ||| place 24 (BitVec.ofNat 5 tsz)

/-- The command word of a command (R112, R113): its opcode, its fields, every other bit 0. -/
def encode : Instr → Word
  | .nop => packWord 0x00 0 0 false 0
  | .perm rnd ff => packWord 0x01 rnd 0 ff 0
  | .block => packWord 0x02 0 0 false 0
  | .setup rnd nlen => packWord 0x03 rnd nlen false 0
  | .hchacha => packWord 0x04 0 0 false 0
  | .crypt => packWord 0x05 0 0 false 0
  | .setctr => packWord 0x06 0 0 false 0
  | .setnonce nlen => packWord 0x07 0 nlen false 0
  | .oneshot rnd nlen => packWord 0x08 rnd nlen false 0
  | .aeadInit tsz => packWord 0x09 0 0 false tsz
  | .aeadSeal nlen => packWord 0x0A 0 nlen false 0
  | .aeadOpen nlen => packWord 0x0B 0 nlen false 0

/-- What the decoder reads from a table row's word: a command is one 32-bit word (R110), so there is
nothing above the `nbits` given but zeros, and a longer word is no command. -/
def decodeTableWord (nbits w : Nat) : Option Instr :=
  if w % 2 ^ nbits < 2 ^ 32 then (decode (BitVec.ofNat 32 (w % 2 ^ nbits))).toOption else none

end Sys2Proof
end

