-- ==== Sys2Proof/Config.lean ====
section
/-! DEFINITION. What a build of the block fixes (00_scope.md rule R8) and the values the spec leaves
open (93_implementation_defined.md rows U1, U2, U14). The build parameters are a record, so that they
can be carried as data and every claim about all states is a claim about all builds. The open values are
constants without a body: no proof can tell what they are. -/

namespace Sys2Proof

/-- Which Poly1305 unit the block drives (R230): the spec's default, the function of rule R231, or any
other total function, `Config.poly1305External`. -/
inductive MacUnit where
  | reference
  | external
  deriving DecidableEq, Repr

/-- When a write of a WO or RW register with a partial strobe that begins while BUSY = 1 gets its ERROR:
`atOnce`, as R91 and R300 (a) say, or `afterCommand`, as the lines of R271 order it (with D35). It has no
effect either way. Assumption 8. -/
inductive StrobeOrder where
  | atOnce
  | afterCommand
  deriving DecidableEq, Repr

/-- The parameters of a build (R8), and the one point on which its rules differ (assumption 8). MBUF_BYTES is a power of two, so its logarithm is what is held.
The latencies `T_*` are left out: no rule depends on them (R352). -/
structure Build where
  mbufLog2 : Nat
  mbufBase : Nat
  hostAw   : Nat
  mac      : MacUnit
  strobe   : StrobeOrder
  deriving DecidableEq, Repr

/-- MBUF_BYTES (R8). -/
def Build.mbufBytes (b : Build) : Nat := 2 ^ b.mbufLog2

/-- The defaults of rule R8: MBUF_BYTES = 65536, MBUF_BASE = 0x10000, HOST_AW = 17, and the POLY1305 of
rule R231; a partial strobe is answered as R91 and R300 (a) say. -/
def Build.default : Build where
  mbufLog2 := 16
  mbufBase := 0x10000
  hostAw   := 17
  mac      := .reference
  strobe   := .atOnce

/-- The legal values of rule R8. -/
abbrev Build.wf (b : Build) : Prop :=
  64 ≤ b.mbufBytes ∧ b.mbufBytes ≤ 2 ^ 30 ∧
  0x1000 ≤ b.mbufBase ∧ b.mbufBase % 0x1000 = 0 ∧
  (0x1000 ≤ b.mbufBytes → b.mbufBase % b.mbufBytes = 0) ∧
  b.mbufBase + b.mbufBytes ≤ 2 ^ b.hostAw

/-- MBUF_INIT (R97, R342, U1): the byte at an offset after the n-th power-on. A free value: any byte.
Assumption 2. -/
opaque Config.mbufInit (powerOn offset : Nat) : Byte

/-- The byte that the n-th command cut short by reset leaves at an offset of its written region (R341,
U2). A free value: any byte. Assumption 3. -/
opaque Config.abortByte (abort offset : Nat) : Byte

/-- The external Poly1305 unit as one total function of key and message (R230, U14). A free value: any
function. Assumption 4. -/
opaque Config.poly1305External (key : Vector Byte 32) (message : ByteString) : Vector Byte 16

end Sys2Proof
end

