-- ==== Sys2Proof/Machine/State.lean ====
section
/-! DEFINITION. The state of the block (10_state.md rule R30), of the host bus in front of it
(20_memory.md rules R81 and R91), and the state after reset (70_reset_and_hazards.md rule R340). -/

namespace Sys2Proof.Machine

/-- The sixteen words of a ChaCha state (R31). -/
abbrev Words16 := Vector Word 16

/-- A 64-bit operand held in a LO and a HI register (R47, R48). -/
structure Pair where
  lo : Word
  hi : Word
  deriving DecidableEq, Repr

/-- The pair registers of rule R39. -/
inductive PairName where
  | ctr
  | src
  | dst
  | len
  | dlen
  | aad
  | aadlen
  deriving DecidableEq, Repr

/-- An engine, persistent or transient: the tuple `(s, ks, off, r, nv)` of rule R190. The persistent one
is `(ST, KS, OFF, ERND, ENV)` (R31, R33 to R36). -/
structure Engine where
  s   : Words16
  ks  : Vector Byte 64
  off : Fin 64
  r   : Nat
  nv  : Nat
  deriving DecidableEq, Repr

/-- The fatal error codes 0 to 10 (R301). Codes 11 to 15 are never produced. -/
inductive ErrCode where
  | noError
  | illegal
  | notConfigured
  | rounds
  | nonceSize
  | tagSize
  | counter
  | length
  | dstShort
  | range
  | overlap
  deriving DecidableEq, Repr

/-- The size of a host-bus transaction: 1, 2 or 4 bytes (R81). -/
inductive Size where
  | byte
  | half
  | word
  deriving DecidableEq, Repr

/-- A host-bus transaction (R81). The low bytes of `data` are the ones a narrow write carries (R83). -/
inductive HostTxn where
  | read (off : Nat) (size : Size)
  | write (off : Nat) (size : Size) (data : Word) (strobe : BitVec 4)
  deriving DecidableEq, Repr

/-- What the outside world does to the block, in the order it happens: a transaction begins, the host
waits for the running command to end, reset is asserted (R340, R341), power is lost and comes back
(R342). -/
inductive HostEvent where
  | txn (t : HostTxn)
  | wait
  | reset
  | powerOn
  deriving DecidableEq, Repr

/-- The response that completes a transaction (R81): OKAY with data for a read, OKAY for a write, or
ERROR, whose read data is always 0 and is not written out (assumption 17). -/
inductive Response where
  | readOkay (data : Word)
  | writeOkay
  | error
  deriving DecidableEq, Repr

/-- The state of the machine. -/
structure State where
  /-- The build's parameters (R8): no step changes them. The model's own field, assumption 1. -/
  build : Build
  /-- ST, KS, OFF, ERND, ENV (R31, R33 to R36). -/
  eng : Engine
  /-- EV (R37). -/
  ev : Bool
  /-- AK (R38). -/
  ak : Vector Byte 32
  /-- TS (R38). -/
  ts : Nat
  /-- AV (R38). -/
  av : Bool
  /-- KEY0 to KEY7 (R45). -/
  key : Vector Word 8
  /-- NONCE0 to NONCE5 (R46). -/
  nonce : Vector Word 6
  /-- CTR_LO and CTR_HI (R47). -/
  ctr : Pair
  /-- SRC_LO and SRC_HI (R48). -/
  src : Pair
  /-- DST_LO and DST_HI (R48). -/
  dst : Pair
  /-- LEN_LO and LEN_HI (R48). -/
  len : Pair
  /-- DLEN_LO and DLEN_HI (R48). -/
  dlen : Pair
  /-- AAD_LO and AAD_HI (R48). -/
  aad : Pair
  /-- AADLEN_LO and AADLEN_HI (R48). -/
  aadlen : Pair
  /-- SIN0 to SIN15 (R49). -/
  sin : Words16
  /-- BLK0 to BLK15 (R51). -/
  blk : Words16
  /-- SUBKEY0 to SUBKEY7 (R52). -/
  subkey : Vector Word 8
  /-- TAG0 to TAG3 (R53). -/
  tag : Vector Word 4
  /-- STATUS.DONE (R40). -/
  done : Bool
  /-- STATUS.AUTH_FAIL (R40). -/
  authFail : Bool
  /-- STATUS.FATAL (R40). -/
  fatal : Bool
  /-- STATUS.ERR (R40). -/
  err : ErrCode
  /-- ERRCMD (R42). -/
  errcmd : Word
  /-- CTRL.IE (R41). -/
  ie : Bool
  /-- MBUF (R80, R97): the bytes written since power-on, by offset, strictly rising. -/
  mbuf : List Host.Cell
  /-- The command word captured by a CMD write and not yet executed (R95). STATUS.BUSY is 1 exactly
  while there is one (R40, R91). -/
  running : Option Word
  /-- The host transaction the block holds until BUSY = 0 (R91). -/
  held : Option HostTxn
  /-- What the outside world will do, next event first. The model's own field, assumption 5. -/
  host : List HostEvent
  /-- The response to the transaction that the last step completed, if it completed one (R81). The
  model's own field, assumption 5. -/
  resp : Option Response
  /-- How often power came on after the first time: which draw of MBUF_INIT is in force. The model's own
  field, assumption 2. -/
  powerOns : Nat
  /-- How many commands a reset has cut short: which draw of rule R341's unspecified bytes is next. The
  model's own field, assumption 3. -/
  aborts : Nat
  deriving DecidableEq, Repr

/-- The reasons the machine stops with a fault. There is none: every error of the block is an error
record or a bus response, after which the machine goes on (R300 to R307). -/
inductive Fault where
  deriving DecidableEq, Repr

/-- The reasons a step is refused. -/
inductive Refusal where
  /-- Raised by an arm of `exec` for a command that has no meaning yet: safe, since nothing is claimed of
  it. No arm raises it. -/
  | notModelled (mnemonic : String)
  deriving DecidableEq, Repr

/-- The outcome of a step of this machine. -/
abbrev Out := Host.Outcome State Fault Refusal

/-- A pair register at reset (R340). -/
def Pair.zero : Pair where
  lo := 0
  hi := 0

/-- The engine context at reset (R340). -/
def Engine.zero : Engine where
  s   := .replicate 16 0
  ks  := .replicate 64 0
  off := 0
  r   := 0
  nv  := 0

/-- The machine after power-on, in the default build, with no host transaction to come: every register
at the value of rule R340, MBUF holding MBUF_INIT (R342). -/
def State.reset : State where
  build    := .default
  eng      := .zero
  ev       := false
  ak       := .replicate 32 0
  ts       := 0
  av       := false
  key      := .replicate 8 0
  nonce    := .replicate 6 0
  ctr      := .zero
  src      := .zero
  dst      := .zero
  len      := .zero
  dlen     := .zero
  aad      := .zero
  aadlen   := .zero
  sin      := .replicate 16 0
  blk      := .replicate 16 0
  subkey   := .replicate 8 0
  tag      := .replicate 4 0
  done     := false
  authFail := false
  fatal    := false
  err      := .noError
  errcmd   := 0
  ie       := false
  mbuf     := []
  running  := none
  held     := none
  host     := []
  resp     := none
  powerOns := 0
  aborts   := 0

end Sys2Proof.Machine
end

