-- ==== Sys2Proof/Machine/Ops.lean ====
section
/-! DEFINITION. The named operations on the message buffer, on the end of a command, on its errors (the
block's exceptions) and on reset. -/

namespace Sys2Proof.Machine

/-! ### The message buffer (20_memory.md rules R80, R97; 00_scope.md rule R12) -/

/-- The canonical form: the offsets strictly rise. An offset that is not listed has not been written
since power-on, and has no value here, so no entry repeats one. Assumption 2. -/
abbrev Memory.wf (m : List Host.Cell) : Prop := m.Pairwise fun c d => c.1 < d.1

/-- The byte written last at an offset since power-on, if any. -/
def Memory.get : List Host.Cell → Nat → Option Byte
  | [], _ => none
  | (k, v) :: m, a => if a = k then some v else Memory.get m a

/-- Write one byte. -/
def Memory.set : List Host.Cell → Nat → Byte → List Host.Cell
  | [], a, b => [(a, b)]
  | (k, v) :: m, a, b =>
    if a < k then (a, b) :: (k, v) :: m
    else if a = k then (a, b) :: m
    else (k, v) :: Memory.set m a b

/-- Write a byte string at consecutive offsets. -/
def Memory.write : List Host.Cell → Nat → ByteString → List Host.Cell
  | m, _, [] => m
  | m, a, b :: B => Memory.write (Memory.set m a b) (a + 1) B

/-- `MBUF[a]`: the byte written last, or the MBUF_INIT byte of this power-on (R97). -/
def State.mbufByte (s : State) (a : Nat) : Byte :=
  (Memory.get s.mbuf a).getD (Config.mbufInit s.powerOns a)

/-- `MemRead(a, n)` (R12). -/
def State.memRead (s : State) (a n : Nat) : ByteString := (List.range n).map fun i => s.mbufByte (a + i)

/-- MBUF after `MemWrite(a, n, B)` with `n = |B|` (R12). -/
def State.memWrite (s : State) (a : Nat) (B : ByteString) : List Host.Cell := Memory.write s.mbuf a B

/-! ### The end of a command, and the block's exceptions (60_exceptions.md rules R303 to R309) -/

/-- `DONE <- 1; BUSY <- 0`: the last effect of every command that runs (R274, R309). -/
def State.complete (s : State) : State := { s with done := true, running := none }

/-- `raise Fatal(code)` in the command with word `w` (R303): the error record, and nothing else. -/
def State.raiseFatal (s : State) (code : ErrCode) (w : Word) : State :=
  { s with fatal := true, err := code, errcmd := w }

/-- `raise AuthFail` (R304). -/
def State.raiseAuthFail (s : State) : State := { s with authFail := true }

/-- A command word that reaches the executor while FATAL = 1 is dropped: no effect, and BUSY is 0
(R305). -/
def State.drop (s : State) : State := { s with running := none }

/-- Run the command with word `w`: `error` is the first of its checks that fails on the state before the
command, `effect` what its rule then does. This is the common part of rule R274: dropped while
FATAL = 1 (R305), fatal entry before any effect (R302, R303), DONE at the end (R309). -/
def State.command (s : State) (w : Word) (error : Option ErrCode) (effect : State → State) : Out :=
  if s.fatal then .next s.drop
  else match error with
    | some code => .next (s.raiseFatal code w).complete
    | none => .next (effect s).complete

/-! ### Reset, the only return from a fatal error (70_reset_and_hazards.md rules R340 to R342) -/

/-- Every register at its reset value; the build, MBUF, what is still to come and the counts of draws stay
(R340). A held transaction is dropped without a response (R341). -/
def State.resetRegisters (s : State) : State :=
  { State.reset with
    build := s.build, mbuf := s.mbuf, host := s.host, powerOns := s.powerOns, aborts := s.aborts }

/-- Power-on: reset, with MBUF holding a new draw of MBUF_INIT (R317, R342). -/
def State.powerOn (s : State) : State :=
  { s.resetRegisters with mbuf := [], powerOns := s.powerOns + 1 }

/-- The unspecified bytes of rule R341, for the region of n bytes at a, as far as it lies in MBUF: a command
that is cut short need not have passed its RANGE check. Assumption 3. -/
def State.abortBytes (s : State) (a n : Nat) : ByteString :=
  (List.range (min n (s.build.mbufBytes - a))).map fun i => Config.abortByte s.aborts (a + i)

/-- Reset while a command runs whose written region has n bytes from a on: the command is aborted, the region's
bytes become unspecified, the registers reset (R341). -/
def State.abort (s : State) (a n : Nat) : State :=
  { s.resetRegisters with mbuf := s.memWrite a (s.abortBytes a n), aborts := s.aborts + 1 }

end Sys2Proof.Machine
end

