-- ==== Sys2Proof/Machine/Operands.lean ====
section
/-! DEFINITION. The operands of commands and the checks on them (30_encoding.md rules R115 and R116,
20_memory.md rules R86 and R88, 60_exceptions.md rule R302). -/

namespace Sys2Proof.Machine

/-- `NAME = NAME_HI·2^32 + NAME_LO` (R116). -/
def Pair.val (p : Pair) : Nat := 2 ^ 32 * p.hi.toNat + p.lo.toNat

/-- The 32 key bytes `key(0..31)` (R45). -/
def State.keyBytes (s : State) : Vector Byte 32 := bytesOf s.key

/-- `NONCE[0..n)` (R46). -/
def State.nonceBytes (s : State) (n : Nat) : ByteString := (bytesOf s.nonce).toList.take n

/-- The legal round counts (R115). -/
abbrev legalRounds (r : Nat) : Prop := r = 8 ∨ r = 12 ∨ r = 20

/-- The legal nonce lengths of an engine (R115). -/
abbrev legalNonce (n : Nat) : Prop := n = 8 ∨ n = 12 ∨ n = 24

/-- The legal tag sizes (R115). -/
abbrev legalTag (t : Nat) : Prop := 1 ≤ t ∧ t ≤ 16

/-- `inrange(a, n)` (R86). -/
abbrev State.inrange (s : State) (a n : Nat) : Prop := n = 0 ∨ a + n ≤ s.build.mbufBytes

/-- `overlap((a, n), (b, m))` (R88). -/
abbrev overlap (a n b m : Nat) : Prop := 0 < n ∧ 0 < m ∧ a < b + m ∧ b < a + n

/-- The bound of rule R194 on one CRYPT or ONESHOT of the 12-byte variant: 2^38 bytes. -/
def cipherBound : Nat := 2 ^ 38

/-- The bound of rule R239 on the body of one SEAL or OPEN: 2^38 − 64 bytes. -/
def aeadBound : Nat := 2 ^ 38 - 64

/-- The checks DST_SHORT, RANGE and OVERLAP, in that order, of a command that writes `outLen` bytes at
DST and reads LEN bytes at SRC and `aadLen` bytes at AAD (R193, R197, R237, R238). CRYPT and ONESHOT read
no additional data: with `aadLen = 0` the AAD region is in range and overlaps nothing (R86, R88). With nothing to write but DLEN > 0 the
capacity (DST, DLEN) must lie in MBUF all the same, as the pseudocode has it: the model's choice, assumption 19. -/
def State.bufferError (s : State) (outLen aadLen : Nat) : Option ErrCode :=
  if s.dlen.val < outLen then some .dstShort
  else if ¬ (s.inrange s.src.val s.len.val ∧ s.inrange s.dst.val s.dlen.val
      ∧ s.inrange s.aad.val aadLen) then some .range
  else if (s.dst.val ≠ s.src.val ∧ overlap s.dst.val outLen s.src.val s.len.val)
      ∨ overlap s.dst.val outLen s.aad.val aadLen then some .overlap
  else none

end Sys2Proof.Machine
end

