-- ==== Sys2Proof/Machine/Flags.lean ====
section
/-! DEFINITION. The status and configuration registers as the host reads them, and the interrupt output
(10_state.md rules R40 to R44, 60_exceptions.md rules R301 and R308). -/

namespace Sys2Proof.Machine

/-- The code of a fatal error in STATUS.ERR (R301). -/
def ErrCode.code : ErrCode → BitVec 4
  | .noError => 0
  | .illegal => 1
  | .notConfigured => 2
  | .rounds => 3
  | .nonceSize => 4
  | .tagSize => 5
  | .counter => 6
  | .length => 7
  | .dstShort => 8
  | .range => 9
  | .overlap => 10

/-- STATUS.BUSY: a command is executing (R40, R91). -/
def State.busy (s : State) : Bool := s.running.isSome

/-- STATUS: its fields, the rest reads 0 (R40). -/
def State.statusWord (s : State) : Word :=
  place 0 (BitVec.ofBool s.busy) ||| place 1 (BitVec.ofBool s.done) ||| place 2 (BitVec.ofBool s.authFail)
    ||| place 3 (BitVec.ofBool s.fatal) ||| place 8 s.err.code ||| place 16 (BitVec.ofBool s.ev)
    ||| place 17 (BitVec.ofBool s.av) ||| place 24 (BitVec.ofNat 6 s.eng.off.val)

/-- CTRL: IE in bit 0, the rest reads 0 (R41). -/
def State.ctrlWord (s : State) : Word := place 0 (BitVec.ofBool s.ie)

/-- ENGCFG: NV in [12:8], RND in [7:0]; all 0 while EV = 0 (R43). -/
def State.engcfgWord (s : State) : Word :=
  if s.ev then place 0 (BitVec.ofNat 8 s.eng.r) ||| place 8 (BitVec.ofNat 5 s.eng.nv) else 0

/-- AEADCFG: NONCESIZE = 12 in [12:8], TS in [4:0], which reads 0 while AV = 0 (R44). -/
def State.aeadcfgWord (s : State) : Word :=
  place 0 (if s.av then BitVec.ofNat 5 s.ts else 0) ||| place 8 12#5

/-- The interrupt output: `irq = CTRL.IE ∧ STATUS.DONE` (R308). -/
def State.irq (s : State) : Bool := s.ie && s.done

end Sys2Proof.Machine
end

