-- ==== Sys2Proof/Machine/Bus.lean ====
section
/-! DEFINITION. Host access: the register map, register and message-buffer transactions
(10_state.md rule R39, 20_memory.md rules R80 to R91, 45_host_access.md rules R270 to R273). -/

namespace Sys2Proof.Machine

/-- The registers of the map of rule R39. `pair p hi` is the LO or the HI half of a pair. -/
inductive Reg where
  | id
  | cmd
  | status
  | ctrl
  | errcmd
  | engcfg
  | aeadcfg
  | key (i : Fin 8)
  | nonce (i : Fin 6)
  | pair (p : PairName) (hi : Bool)
  | sin (i : Fin 16)
  | state (i : Fin 16)
  | blk (i : Fin 16)
  | subkey (i : Fin 8)
  | tag (i : Fin 4)
  deriving DecidableEq, Repr

/-- The access classes of rule R39; STATUS is read-only but for its W1C bit (R40). -/
inductive Access where
  | ro
  | wo
  | rw
  | w1c
  deriving DecidableEq, Repr

/-- The access class of a register (R39). -/
def Reg.access : Reg → Access
  | .id | .errcmd | .engcfg | .aeadcfg | .state _ | .blk _ | .subkey _ | .tag _ => .ro
  | .cmd | .key _ => .wo
  | .status => .w1c
  | .ctrl | .nonce _ | .pair _ _ | .sin _ => .rw

/-- The place of a pair among the seven pairs of rule R39, from offset 0x058 on. -/
def PairName.index : PairName → Nat
  | .ctr => 0
  | .src => 1
  | .dst => 2
  | .len => 3
  | .dlen => 4
  | .aad => 5
  | .aadlen => 6

/-- The offset of a register in the window (R39). -/
def Reg.offset : Reg → Nat
  | .id => 0x000
  | .cmd => 0x004
  | .status => 0x008
  | .ctrl => 0x00C
  | .errcmd => 0x010
  | .engcfg => 0x014
  | .aeadcfg => 0x018
  | .key i => 0x020 + 4 * i.val
  | .nonce i => 0x040 + 4 * i.val
  | .pair p hi => 0x058 + 8 * p.index + (if hi then 4 else 0)
  | .sin i => 0x0C0 + 4 * i.val
  | .state i => 0x100 + 4 * i.val
  | .blk i => 0x140 + 4 * i.val
  | .subkey i => 0x180 + 4 * i.val
  | .tag i => 0x1A0 + 4 * i.val

/-- Every register of the map (R39), in its order. -/
def allRegs : List Reg :=
  [.id, .cmd, .status, .ctrl, .errcmd, .engcfg, .aeadcfg]
    ++ (List.finRange 8).map .key ++ (List.finRange 6).map .nonce
    ++ [PairName.ctr, .src, .dst, .len, .dlen, .aad, .aadlen].flatMap (fun p => [.pair p false, .pair p true])
    ++ (List.finRange 16).map .sin ++ (List.finRange 16).map .state ++ (List.finRange 16).map .blk
    ++ (List.finRange 8).map .subkey ++ (List.finRange 4).map .tag

/-- The register at an offset of the window, if one is mapped there (R39). -/
def regAt (off : Nat) : Option Reg := allRegs.find? fun r => r.offset == off

/-- The pair of that name (R47, R48). -/
def State.pair (s : State) : PairName → Pair
  | .ctr => s.ctr
  | .src => s.src
  | .dst => s.dst
  | .len => s.len
  | .dlen => s.dlen
  | .aad => s.aad
  | .aadlen => s.aadlen

/-- Replace the pair of that name. -/
def State.setPair (s : State) (n : PairName) (p : Pair) : State :=
  match n with
  | .ctr => { s with ctr := p }
  | .src => { s with src := p }
  | .dst => { s with dst := p }
  | .len => { s with len := p }
  | .dlen => { s with dlen := p }
  | .aad => { s with aad := p }
  | .aadlen => { s with aadlen := p }

/-- The LO or the HI half of a pair. -/
def Pair.half (p : Pair) (hi : Bool) : Word := if hi then p.hi else p.lo

/-- Replace one half of a pair. -/
def Pair.setHalf (p : Pair) (hi : Bool) (d : Word) : Pair :=
  if hi then { p with hi := d } else { p with lo := d }

/-- The value the block reports in ID (R3, R54). -/
def idWord : Word := 0x43433230

/-- The read value of a register (R40 to R55): CMD and KEY read 0, and so do the words 4 to 11 of ST,
which hold the key (R50). -/
def State.readReg (s : State) : Reg → Word
  | .id => idWord
  | .cmd => 0
  | .status => s.statusWord
  | .ctrl => s.ctrlWord
  | .errcmd => s.errcmd
  | .engcfg => s.engcfgWord
  | .aeadcfg => s.aeadcfgWord
  | .key _ => 0
  | .nonce i => s.nonce[i]
  | .pair n hi => (s.pair n).half hi
  | .sin i => s.sin[i]
  | .state i => if 4 ≤ i.val ∧ i.val ≤ 11 then 0 else s.eng.s[i]
  | .blk i => s.blk[i]
  | .subkey i => s.subkey[i]
  | .tag i => s.tag[i]

/-- A write of word w to CMD: dropped while FATAL = 1 (R305), else the word is captured and BUSY is 1
until the command has run (R91, R95, R274). -/
def State.issueCommand (s : State) (w : Word) : State :=
  if s.fatal then s else { s with running := some w }

/-- A full-strobe write of a register (R271): a read-only register ignores it, bit 1 of a STATUS write
clears DONE. -/
def State.writeReg (s : State) (d : Word) : Reg → State
  | .cmd => s.issueCommand d
  | .status => if d.getLsbD 1 then { s with done := false } else s
  | .ctrl => { s with ie := d.getLsbD 0 }
  | .key i => { s with key := s.key.set i d }
  | .nonce i => { s with nonce := s.nonce.set i d }
  | .pair n hi => s.setPair n ((s.pair n).setHalf hi d)
  | .sin i => { s with sin := s.sin.set i d }
  | .id | .errcmd | .engcfg | .aeadcfg | .state _ | .blk _ | .subkey _ | .tag _ => s

/-- The bytes of a transaction (R81). -/
def Size.bytes : Size → Nat
  | .byte => 1
  | .half => 2
  | .word => 4

/-- The offset is in the register window (R80 (a)). -/
abbrev inRegisters (off : Nat) : Prop := off < 0x1000

/-- The transaction is an access to MBUF that the bus allows: inside the window, naturally aligned (R80
(b), R85, R272, R273). -/
abbrev State.mbufAccess (s : State) (off : Nat) (size : Size) : Prop :=
  s.build.mbufBase ≤ off ∧ (off - s.build.mbufBase) % size.bytes = 0
    ∧ off - s.build.mbufBase + size.bytes ≤ s.build.mbufBytes

/-- The register that a transaction of this size reaches, if any: registers are accessed whole and
aligned (R84). -/
def regAccess (off : Nat) (size : Size) : Option Reg := if size = .word then regAt off else none

/-- The strobe a register asks of a write: all four lanes for WO and RW (R84), none for the others
(R271). -/
def strobeOk (r : Reg) (strobe : BitVec 4) : Bool :=
  match r.access with
  | .ro | .w1c => true
  | .wo | .rw => strobe == 0b1111#4

/-- The data of an MBUF read, the byte at the offset in the low bits (R83, R272). -/
def State.mbufData (s : State) (a : Nat) (size : Size) : Word := le32 (s.memRead a size.bytes) 0

/-- The bytes of a write from lane k on that the strobe enables (R273). -/
def State.writeLanes (s : State) (a : Nat) (d : Word) (strobe : BitVec 4) : Nat → Nat → State
  | 0, _ => s
  | n + 1, k =>
    State.writeLanes
      (if strobe.getLsbD k then { s with mbuf := Memory.set s.mbuf (a + k) (wordByte d k) } else s)
      a d strobe n (k + 1)

/-- A read: its data, or none for ERROR (R81, R270, R272). -/
def State.hostRead (s : State) (off : Nat) (size : Size) : Option Word :=
  if inRegisters off then (regAccess off size).map s.readReg
  else if s.mbufAccess off size then some (s.mbufData (off - s.build.mbufBase) size)
  else none

/-- A write: the state it leaves, or none for ERROR (R81, R271, R273). A STATUS write acts only with byte
lane 0 enabled (R40). -/
def State.hostWrite (s : State) (off : Nat) (size : Size) (d : Word) (strobe : BitVec 4) : Option State :=
  if inRegisters off then
    match regAccess off size with
    | none => none
    | some r =>
      if strobeOk r strobe then
        some (if r = .status ∧ strobe.getLsbD 0 = false then s else s.writeReg d r)
      else none
  else if s.mbufAccess off size then
    some (s.writeLanes (off - s.build.mbufBase) d strobe size.bytes 0)
  else none

/-- Perform a transaction and respond (R81): an ERROR has no effect. -/
def State.perform (s : State) : HostTxn → State
  | .read off size =>
    match s.hostRead off size with
    | some d => { s with resp := some (.readOkay d) }
    | none => { s with resp := some .error }
  | .write off size d strobe =>
    match s.hostWrite off size d strobe with
    | some t => { t with resp := some .writeOkay }
    | none => { s with resp := some .error }

/-- The transaction gets an ERROR response (R300 (a)). -/
def State.isError (s : State) : HostTxn → Bool
  | .read off size => (s.hostRead off size).isNone
  | .write off size d strobe => (s.hostWrite off size d strobe).isNone

/-- The transaction is a read of ID or STATUS (R91). -/
def isStatusRead : HostTxn → Bool
  | .read off size => (off == 0x000 || off == 0x008) && size == .word
  | .write _ _ _ _ => false

/-- The transaction is an aligned full-width write of a mapped register whose strobe the register does not
allow (R84, R271). -/
def isPartialWrite : HostTxn → Bool
  | .read _ _ => false
  | .write off size _ strobe =>
    match regAccess off size with
    | some r => !strobeOk r strobe
    | none => false

/-- The transaction gets its ERROR response even while BUSY = 1 (R91, R300 (a)). R271 tests a partial strobe
only after the hold: a build of that order answers such a write when the command has ended. Assumption 8. -/
def State.errorAtOnce (s : State) (t : HostTxn) : Bool :=
  s.isError t && !(isPartialWrite t && s.build.strobe == .afterCommand)

/-- A transaction that begins while BUSY = 1: an ERROR, or a read of STATUS or ID, is answered at once,
any other is held (R91, R270 to R273, R300 (a)). -/
def State.duringCommand (s : State) (t : HostTxn) : State :=
  if s.errorAtOnce t || isStatusRead t then s.perform t else { s with held := some t }

end Sys2Proof.Machine
end

