-- ==== Sys2Proof/Machine/Permutation.lean ====
section
/-! DEFINITION. The core block generator (40_core.md rules R140 to R146). -/

namespace Sys2Proof.Machine

/-- The four words a quarter-round works on. -/
structure Quad where
  a : Word
  b : Word
  c : Word
  d : Word
  deriving DecidableEq, Repr

/-- The quarter-round on four words, line by line as rule R141 has it. -/
def quarterRound : Quad → Quad
  | ⟨a, b, c, d⟩ =>
    let a := a + b; let d := rotl (d ^^^ a) 16
    let c := c + d; let b := rotl (b ^^^ c) 12
    let a := a + b; let d := rotl (d ^^^ a) 8
    let c := c + d; let b := rotl (b ^^^ c) 7
    ⟨a, b, c, d⟩

/-- `QR(x, a, b, c, d)` (R141): the words at four distinct indices are replaced. -/
def qr (x : Words16) (a b c d : Fin 16) : Words16 :=
  match quarterRound ⟨x[a], x[b], x[c], x[d]⟩ with
  | ⟨p, q, r, s⟩ => (((x.set a p).set b q).set c r).set d s

/-- A column round (R142). -/
def columnRound (x : Words16) : Words16 :=
  qr (qr (qr (qr x 0 4 8 12) 1 5 9 13) 2 6 10 14) 3 7 11 15

/-- A diagonal round (R142). -/
def diagonalRound (x : Words16) : Words16 :=
  qr (qr (qr (qr x 0 5 10 15) 1 6 11 12) 2 7 8 13) 3 4 9 14

/-- `DR(x)`: a column round, then a diagonal round (R142). -/
def doubleRound (x : Words16) : Words16 := diagonalRound (columnRound x)

/-- n double rounds. -/
def doubleRounds : Nat → Words16 → Words16
  | 0, x => x
  | n + 1, x => doubleRounds n (doubleRound x)

/-- `permute(s, r)`: r/2 double rounds (R143). -/
@[irreducible] def permute (s : Words16) (r : Nat) : Words16 := doubleRounds (r / 2) s

/-- The output words of the block function: the permuted words plus the saved input words (R144). -/
def blockWords (s : Words16) (r : Nat) : Words16 := Vector.zipWith (· + ·) (permute s r) s

/-- `block(s, r)`: the output words, serialised (R144). -/
def block (s : Words16) (r : Nat) : Vector Byte 64 := bytesOf (blockWords s r)

/-- `inc(s, nv)`: the 32-bit counter in word 12 for nv = 12, else the 64-bit counter in words 12 and 13;
a wrap is silent (R145). -/
def inc (s : Words16) (nv : Nat) : Words16 :=
  if nv = 12 then s.set 12 (s[12] + 1)
  else
    let c := (s[12].toNat + 2 ^ 32 * s[13].toNat + 1) % 2 ^ 64
    (s.set 12 (BitVec.ofNat 32 c)).set 13 (BitVec.ofNat 32 (c >>> 32))

/-- `generate(s, r, nv)`: the block of s, and s with its counter advanced (R146). -/
def generate (s : Words16) (r nv : Nat) : Vector Byte 64 × Words16 := (block s r, inc s nv)

end Sys2Proof.Machine
end

