-- ==== Sys2Proof/Machine/Init.lean ====
section
/-! DEFINITION. The state initialiser, the counter and nonce fields, and HChaCha20 (41_state_init.md rules
R160 to R164, 42_hchacha.md rule R180). -/

namespace Sys2Proof.Machine

/-- C0 to C3: "expand 32-byte k" as four little-endian words (R160). -/
def constants : Vector Word 4 := #v[0x61707865, 0x3320646e, 0x79622d32, 0x6b206574]

/-- A state of constants, the eight words of a 32-byte key, and four words more (R161, R180). -/
def layout (K : ByteString) (w12 w13 w14 w15 : Word) : Words16 :=
  (constants ++ wordsOf 8 K) ++ #v[w12, w13, w14, w15]

/-- `hchacha(K, N16)`: 20 rounds without feedforward, words 0 to 3 and 12 to 15 serialised (R180). -/
@[irreducible] def hchacha (K N16 : ByteString) : ByteString :=
  let x := permute (layout K (le32 N16 0) (le32 N16 4) (le32 N16 8) (le32 N16 12)) 20
  (bytesOf #v[x[0], x[1], x[2], x[3], x[12], x[13], x[14], x[15]]).toList

/-- `init(K, N, nv)` with the layout of 90_conflicts.md C1 and C2 (R161). -/
def init (K N : ByteString) (nv : Nat) : Words16 :=
  if nv = 24 then layout (hchacha K (N.take 16)) 0 0 (le32 N 16) (le32 N 20)
  else if nv = 8 then layout K 0 0 (le32 N 0) (le32 N 4)
  else layout K 0 (le32 N 0) (le32 N 4) (le32 N 8)

/-- `ctr(s, nv)` (R162). -/
def counter (s : Words16) (nv : Nat) : Nat :=
  if nv = 12 then s[12].toNat else s[12].toNat + 2 ^ 32 * s[13].toNat

/-- `setctr(s, nv, v)` (R163); the caller has checked that v fits the field. -/
def setctr (s : Words16) (nv v : Nat) : Words16 :=
  if nv = 12 then s.set 12 (BitVec.ofNat 32 v)
  else (s.set 12 (BitVec.ofNat 32 v)).set 13 (BitVec.ofNat 32 (v >>> 32))

/-- `setnonce(s, nv, N)` for nv = 8 or 12 (R164). -/
def setnonce (s : Words16) (nv : Nat) (N : ByteString) : Words16 :=
  if nv = 12 then ((s.set 13 (le32 N 0)).set 14 (le32 N 4)).set 15 (le32 N 8)
  else (s.set 14 (le32 N 0)).set 15 (le32 N 4)

end Sys2Proof.Machine
end

