-- ==== Sys2Proof/Machine/Stream.lean ====
section
/-! DEFINITION. The streaming XOR of an engine (43_engine.md rules R190 and R191). -/

namespace Sys2Proof.Machine

/-- A new engine around a state: empty buffer (R190). Its `ks` may hold anything, since nothing reads it
while `off` is 0 (R33). Assumption 6. -/
def Engine.fresh (s : Words16) (r nv : Nat) : Engine where
  s   := s
  ks  := .replicate 64 0
  off := 0
  r   := r
  nv  := nv

/-- Step 1 of rule R191: XOR with the buffered tail as far as both go. The output, and the engine with
its offset moved on; an offset of 64 is an empty buffer, 0. -/
def Engine.drain (e : Engine) (S : ByteString) : ByteString × Engine :=
  if 0 < e.off.val then
    let k := min S.length (64 - e.off.val)
    (xorBytes (S.take k) (e.ks.toList.drop e.off.val), { e with off := Fin.ofNat 64 (e.off.val + k) })
  else ([], e)

/-- Step 2 of rule R191 for m blocks: whole blocks XORed directly, never stored in `ks`. -/
def Engine.wholeBlocks : Nat → Engine → ByteString → ByteString × Engine
  | 0, e, _ => ([], e)
  | m + 1, e, S =>
    let g := generate e.s e.r e.nv
    let rest := Engine.wholeBlocks m { e with s := g.2 } (S.drop 64)
    (xorBytes (S.take 64) g.1.toList ++ rest.1, rest.2)

/-- Step 3 of rule R191 for a remainder shorter than a block: one more block into the buffer. -/
def Engine.tail (e : Engine) (S : ByteString) : ByteString × Engine :=
  if 0 < S.length then
    let g := generate e.s e.r e.nv
    (xorBytes S g.1.toList, { e with s := g.2, ks := g.1, off := Fin.ofNat 64 S.length })
  else ([], e)

/-- `xks(E, S)` (R191). -/
@[irreducible] def xks (e : Engine) (S : ByteString) : ByteString × Engine :=
  let d := e.drain S
  let S1 := S.drop d.1.length
  let m := S1.length / 64
  let b := d.2.wholeBlocks m S1
  let t := b.2.tail (S1.drop (64 * m))
  (d.1 ++ b.1 ++ t.1, t.2)

end Sys2Proof.Machine
end

