-- ==== Sys2Proof/Machine/Mac.lean ====
section
/-! DEFINITION. The Poly1305 unit, the MAC framing, the one-time key and the tag comparison (44_aead.md
rules R230 to R235). -/

namespace Sys2Proof.Machine

/-- The clamp mask of rule R231. -/
def clampMask : Nat := 0x0ffffffc0ffffffc0ffffffc0fffffff

/-- The prime 2^130 − 5 of rule R231. -/
def polyPrime : Nat := 2 ^ 130 - 5

/-- The accumulator of rule R231 after n more chunks of 16 bytes (the last may be shorter). -/
def polyAccumulate (r : Nat) : Nat → Nat → ByteString → Nat
  | 0, acc, _ => acc
  | n + 1, acc, M =>
    polyAccumulate r n ((acc + leValue (M.take 16 ++ [1])) * r % polyPrime) (M.drop 16)

/-- `POLY1305_RFC(k, M)` (R231). -/
@[irreducible] def poly1305Reference (k : Vector Byte 32) (M : ByteString) : Vector Byte 16 :=
  let r := leValue (k.toList.take 16) &&& clampMask
  let s := leValue (k.toList.drop 16)
  let acc := polyAccumulate r ((M.length + 15) / 16) 0 M
  leBytes 16 ((acc + s) % 2 ^ 128)

/-- POLY1305 of a build (R230). -/
def poly1305 (u : MacUnit) (k : Vector Byte 32) (M : ByteString) : Vector Byte 16 :=
  match u with
  | .reference => poly1305Reference k M
  | .external => Config.poly1305External k M

/-- `pad16(n)` (R232). -/
def pad16 (n : Nat) : Nat := (16 - n % 16) % 16

/-- `macin(A, C)` (R232). -/
@[irreducible] def macin (A C : ByteString) : ByteString :=
  A ++ zeros (pad16 A.length) ++ C ++ zeros (pad16 C.length) ++ le64 A.length ++ le64 C.length

/-- `MAC(otk, A, C)` (R232). -/
def mac (u : MacUnit) (otk : Vector Byte 32) (A C : ByteString) : ByteString :=
  (poly1305 u otk (macin A C)).toList

/-- `aead_setup(AK, N)` (R233): the transient engine at counter 1, and the one-time key, bytes 0 to 31 of
block 0. -/
def aeadSetup (AK N : ByteString) : Engine × Vector Byte 32 :=
  let g := generate (init AK N 12) 20 12
  (Engine.fresh g.2 20 12, Vector.ofFn fun i => g.1[i.val])

/-- The OR over all byte pairs of their XOR: every byte, no early exit (R235). -/
def tagDiff : ByteString → ByteString → Byte
  | t :: T, x :: X => (t ^^^ x) ||| tagDiff T X
  | _, _ => 0

/-- `tag_equal(T, X, TS)` on the first TS bytes (R235). -/
def tagEqual (T X : ByteString) (ts : Nat) : Bool := tagDiff (T.take ts) (X.take ts) == 0

end Sys2Proof.Machine
end

