-- ==== Sys2Proof/Machine/AeadCommands.lean ====
section
/-! DEFINITION. AEAD_INIT, SEAL and OPEN (44_aead.md rules R236 to R240). -/

namespace Sys2Proof.Machine

/-- The check of AEAD_INIT (R236). -/
def aeadInitError (tsz : Nat) : Option ErrCode := if legalTag tsz then none else some .tagSize

/-- What AEAD_INIT does (R236). -/
def State.aeadInitEffect (s : State) (tsz : Nat) : State := { s with ak := s.keyBytes, ts := tsz, av := true }

/-- AEAD_INIT (R236). -/
def execAeadInit (tsz : Nat) (s : State) : Out :=
  s.command (encode (.aeadInit tsz)) (aeadInitError tsz) (·.aeadInitEffect tsz)

/-- The checks of SEAL, in order (R237). -/
def State.sealError (s : State) (nlen : Nat) : Option ErrCode :=
  if ¬ s.av then some .notConfigured
  else if nlen ≠ 12 then some .nonceSize
  else if aeadBound < s.len.val then some .length
  else s.bufferError (s.len.val + s.ts) s.aadlen.val

/-- The ciphertext body that SEAL makes of the bytes at SRC (R233, R237). -/
def State.sealBody (s : State) : ByteString :=
  (xks (aeadSetup s.ak.toList (s.nonceBytes 12)).1 (s.memRead s.src.val s.len.val)).1

/-- The first TS bytes of the MAC of the additional data and a ciphertext body, under this state's key and
nonce (R232 to R234). -/
def State.expectedTag (s : State) (C : ByteString) : ByteString :=
  (mac s.build.mac (aeadSetup s.ak.toList (s.nonceBytes 12)).2 (s.memRead s.aad.val s.aadlen.val) C).take s.ts

/-- The TAG registers holding a tag of at most 16 bytes, zero-padded (R53). -/
def tagWords (T : ByteString) : Vector Word 4 := wordsOf 4 (T ++ zeros (16 - T.length))

/-- What SEAL does (R237): all reads come before the write (R89). -/
def State.sealEffect (s : State) : State :=
  let C := s.sealBody
  let T := s.expectedTag C
  { s with mbuf := s.memWrite s.dst.val (C ++ T), tag := tagWords T, authFail := false }

/-- SEAL (R237). -/
def execSeal (nlen : Nat) (s : State) : Out :=
  s.command (encode (.aeadSeal nlen)) (s.sealError nlen) State.sealEffect

/-- The length of the ciphertext body that OPEN receives (R238). -/
def State.openBodyLen (s : State) : Nat := if s.ts ≤ s.len.val then s.len.val - s.ts else 0

/-- The fatal checks of OPEN, in order (R238). -/
def State.openError (s : State) (nlen : Nat) : Option ErrCode :=
  if ¬ s.av then some .notConfigured
  else if nlen ≠ 12 then some .nonceSize
  else if aeadBound < s.openBodyLen then some .length
  else s.bufferError s.openBodyLen s.aadlen.val

/-- The ciphertext body that OPEN receives (R238). -/
def State.openBody (s : State) : ByteString := s.memRead s.src.val s.openBodyLen

/-- The tag that OPEN receives (R238). -/
def State.openTag (s : State) : ByteString := s.memRead (s.src.val + s.openBodyLen) s.ts

/-- The received message passes OPEN's checks of authenticity: it is long enough to hold a tag, and the
tag is the expected one (R235, R238). -/
def State.authentic (s : State) : Bool :=
  decide (s.ts ≤ s.len.val) && tagEqual s.openTag (s.expectedTag s.openBody) s.ts

/-- What OPEN does (R238): TAG is zeroed in any case, the plaintext is made and written only after the
comparison (R240). -/
def State.openEffect (s : State) : State :=
  let s0 : State := { s with tag := .replicate 4 0 }
  if s.authentic then
    let P := (xks (aeadSetup s.ak.toList (s.nonceBytes 12)).1 s.openBody).1
    { s0 with mbuf := s.memWrite s.dst.val P, authFail := false }
  else s0.raiseAuthFail

/-- OPEN (R238). -/
def execOpen (nlen : Nat) (s : State) : Out :=
  s.command (encode (.aeadOpen nlen)) (s.openError nlen) State.openEffect

end Sys2Proof.Machine
end

