-- ==== Sys2Proof/Machine/CoreCommands.lean ====
section
/-! DEFINITION. NOP, PERM and BLOCK (45_host_access.md rule R275, 40_core.md rules R148 and R149). -/

namespace Sys2Proof.Machine

/-- NOP (R275): only the common completion happens. -/
def execNop (s : State) : Out := s.command (encode .nop) none id

/-- The check of PERM (R148). -/
def permError (rnd : Nat) : Option ErrCode := if legalRounds rnd then none else some .rounds

/-- What PERM leaves in BLK (R148). -/
def permResult (rnd : Nat) (ff : Bool) (x : Words16) : Words16 :=
  if ff then blockWords x rnd else permute x rnd

/-- What PERM does (R148). -/
def State.permEffect (s : State) (rnd : Nat) (ff : Bool) : State := { s with blk := permResult rnd ff s.sin }

/-- PERM (R148). -/
def execPerm (rnd : Nat) (ff : Bool) (s : State) : Out :=
  s.command (encode (.perm rnd ff)) (permError rnd) (·.permEffect rnd ff)

/-- The check of BLOCK (R149). -/
def State.blockError (s : State) : Option ErrCode := if s.ev then none else some .notConfigured

/-- What BLOCK does (R149). Its BLK words are `le32(B, 4i)` of the block B. -/
def State.blockEffect (s : State) : State :=
  let g := generate s.eng.s s.eng.r s.eng.nv
  { s with blk := wordsOf 16 g.1.toList, eng := { s.eng with s := g.2 } }

/-- BLOCK (R149). -/
def execBlock (s : State) : Out := s.command (encode .block) s.blockError State.blockEffect

end Sys2Proof.Machine
end

