-- ==== Sys2Proof/Machine/EngineCommands.lean ====
section
/-! DEFINITION. CRYPT, SETCTR, SETNONCE and ONESHOT (43_engine.md rules R193 to R197). -/

namespace Sys2Proof.Machine

/-- The checks of CRYPT, in order (R193). -/
def State.cryptError (s : State) : Option ErrCode :=
  if ¬ s.ev then some .notConfigured
  else if s.eng.nv = 12 ∧ cipherBound < s.len.val then some .length
  else s.bufferError s.len.val 0

/-- What CRYPT does (R193): all input bytes are read before any output byte is written (R89). -/
def State.cryptEffect (s : State) : State :=
  let d := xks s.eng (s.memRead s.src.val s.len.val)
  { s with mbuf := s.memWrite s.dst.val d.1, eng := d.2 }

/-- CRYPT (R193). -/
def execCrypt (s : State) : Out := s.command (encode .crypt) s.cryptError State.cryptEffect

/-- The checks of SETCTR, in order (R195). -/
def State.setctrError (s : State) : Option ErrCode :=
  if ¬ s.ev then some .notConfigured
  else if s.eng.nv = 12 ∧ 2 ^ 32 ≤ s.ctr.val then some .counter
  else none

/-- What SETCTR does (R195). -/
def State.setctrEffect (s : State) : State :=
  { s with eng := { s.eng with s := setctr s.eng.s s.eng.nv s.ctr.val, off := 0 } }

/-- SETCTR (R195). -/
def execSetctr (s : State) : Out := s.command (encode .setctr) s.setctrError State.setctrEffect

/-- The checks of SETNONCE, in order (R196). -/
def State.setnonceError (s : State) (nlen : Nat) : Option ErrCode :=
  if ¬ s.ev then some .notConfigured
  else if nlen ≠ s.eng.nv ∨ s.eng.nv = 24 then some .nonceSize
  else none

/-- What SETNONCE does (R196). -/
def State.setnonceEffect (s : State) (nlen : Nat) : State :=
  { s with eng := { s.eng with s := setnonce s.eng.s s.eng.nv (s.nonceBytes nlen), off := 0 } }

/-- SETNONCE (R196). -/
def execSetnonce (nlen : Nat) (s : State) : Out :=
  s.command (encode (.setnonce nlen)) (s.setnonceError nlen) (·.setnonceEffect nlen)

/-- The checks of ONESHOT, in order (R197). -/
def State.oneshotError (s : State) (rnd nlen : Nat) : Option ErrCode :=
  if ¬ legalRounds rnd then some .rounds
  else if ¬ legalNonce nlen then some .nonceSize
  else if nlen = 12 ∧ 2 ^ 32 ≤ s.ctr.val then some .counter
  else if nlen = 12 ∧ cipherBound < s.len.val then some .length
  else s.bufferError s.len.val 0

/-- The transient engine of ONESHOT: a new engine at counter CTR (R197). -/
def State.oneshotEngine (s : State) (rnd nlen : Nat) : Engine :=
  Engine.fresh (setctr (init s.keyBytes.toList (s.nonceBytes nlen) nlen) nlen s.ctr.val) rnd nlen

/-- What ONESHOT does (R197). -/
def State.oneshotEffect (s : State) (rnd nlen : Nat) : State :=
  { s with
    mbuf := s.memWrite s.dst.val (xks (s.oneshotEngine rnd nlen) (s.memRead s.src.val s.len.val)).1 }

/-- ONESHOT (R197). -/
def execOneshot (rnd nlen : Nat) (s : State) : Out :=
  s.command (encode (.oneshot rnd nlen)) (s.oneshotError rnd nlen) (·.oneshotEffect rnd nlen)

end Sys2Proof.Machine
end

