-- ==== Sys2Proof/Machine/SetupCommands.lean ====
section
/-! DEFINITION. SETUP and HCHACHA (41_state_init.md rule R165, 42_hchacha.md rule R181). -/

namespace Sys2Proof.Machine

/-- The checks of SETUP, in order (R165). -/
def setupError (rnd nlen : Nat) : Option ErrCode :=
  if ¬ legalRounds rnd then some .rounds
  else if ¬ legalNonce nlen then some .nonceSize
  else none

/-- What SETUP does (R165). KS keeps its bytes. -/
def State.setupEffect (s : State) (rnd nlen : Nat) : State :=
  { s with
    eng := { s.eng with s := init s.keyBytes.toList (s.nonceBytes nlen) nlen, r := rnd, nv := nlen, off := 0 }
    ev := true }

/-- SETUP (R165). -/
def execSetup (rnd nlen : Nat) (s : State) : Out :=
  s.command (encode (.setup rnd nlen)) (setupError rnd nlen) (·.setupEffect rnd nlen)

/-- What HCHACHA does (R181). -/
def State.hchachaEffect (s : State) : State :=
  { s with subkey := wordsOf 8 (hchacha s.keyBytes.toList (s.nonceBytes 16)) }

/-- HCHACHA (R181). It has no check of its own. -/
def execHchacha (s : State) : Out := s.command (encode .hchacha) none State.hchachaEffect

end Sys2Proof.Machine
end

