-- ==== Sys2Proof/Machine/Dispatch.lean ====
section
/-! DEFINITION. One arm per command (30_encoding.md rule R112). -/

namespace Sys2Proof.Machine

def exec (i : Instr) (s : State) : Host.Outcome State Fault Refusal :=
  match i with
  | .nop => Sys2Proof.Machine.execNop s
  | .perm rnd ff => Sys2Proof.Machine.execPerm rnd ff s
  | .block => Sys2Proof.Machine.execBlock s
  | .setup rnd nlen => Sys2Proof.Machine.execSetup rnd nlen s
  | .hchacha => Sys2Proof.Machine.execHchacha s
  | .crypt => Sys2Proof.Machine.execCrypt s
  | .setctr => Sys2Proof.Machine.execSetctr s
  | .setnonce nlen => Sys2Proof.Machine.execSetnonce nlen s
  | .oneshot rnd nlen => Sys2Proof.Machine.execOneshot rnd nlen s
  | .aeadInit tsz => Sys2Proof.Machine.execAeadInit tsz s
  | .aeadSeal nlen => Sys2Proof.Machine.execSeal nlen s
  | .aeadOpen nlen => Sys2Proof.Machine.execOpen nlen s

end Sys2Proof.Machine
end

