-- ==== Sys2Proof/Machine/Issue.lean ====
section
/-! DEFINITION. How commands and the outside world's events follow one another (20_memory.md rules R91 and
R92, 45_host_access.md rules R274 and R278, 70_reset_and_hazards.md rules R340 to R342). -/

namespace Sys2Proof.Machine

/-- Execute the command word w as one atomic step (R13, R274): the command it decodes as, or the fatal
error ILLEGAL (R114). -/
def State.issue (s : State) (w : Word) : Out :=
  match decode w with
  | .ok i => exec i s
  | .error _ => s.command w (some .illegal) id

/-- The written region of a command, offset and length, as rule R341 lists it, whether or not the command would
pass its checks; a command that does not use MBUF has none. -/
def State.writtenRegion (s : State) : Instr → Nat × Nat
  | .crypt | .oneshot _ _ => (s.dst.val, s.len.val)
  | .aeadSeal _ => (s.dst.val, s.len.val + s.ts)
  | .aeadOpen _ => (s.dst.val, s.openBodyLen)
  | .nop | .perm _ _ | .block | .setup _ _ | .hchacha | .setctr | .setnonce _ | .aeadInit _ => (0, 0)

/-- Reset while the command word w runs (R341). An illegal word writes nothing. -/
def State.abortCommand (s : State) (w : Word) : State :=
  match decode w with
  | .ok i => s.abort (s.writtenRegion i).1 (s.writtenRegion i).2
  | .error _ => s.abort 0 0

/-- The next step while the command word w runs. Before it ends the host may begin a transaction, unless
one of its is held already (R81), and reset or loss of power may cut it short. Otherwise it runs. -/
def State.busyStep (s : State) (w : Word) : Out :=
  match s.held, s.host with
  | none, .txn t :: rest => .next (State.duringCommand { s with host := rest } t)
  | _, .reset :: rest => .next (State.abortCommand { s with host := rest } w)
  | _, .powerOn :: rest => .next (State.powerOn (State.abortCommand { s with host := rest } w))
  | _, .wait :: rest => State.issue { s with host := rest } w
  | some _, .txn _ :: _ => s.issue w
  | _, [] => s.issue w

/-- The next step while no command runs: a transaction that was held is performed (R91), else the next
event takes place; with nothing to come the block stays as it is (R340). -/
def State.idleStep (s : State) : Out :=
  match s.held, s.host with
  | some t, _ => .next (State.perform { s with held := none } t)
  | none, [] => .next s
  | none, .txn t :: rest => .next (State.perform { s with host := rest } t)
  | none, .wait :: rest => .next { s with host := rest }
  | none, .reset :: rest => .next (State.resetRegisters { s with host := rest })
  | none, .powerOn :: rest => .next (State.powerOn { s with host := rest })

/-- One step of the machine. The response of an earlier step is no longer on the bus. -/
def State.advance (s : State) : Out :=
  match s.running with
  | some w => State.busyStep { s with resp := none } w
  | none => State.idleStep { s with resp := none }

/-- The state in which the host has just written the word w to CMD and now waits, so that the next step
executes it (R274). -/
def State.placeCommand (s : State) (w : Word) : State :=
  { s with running := some w, host := .wait :: s.host }

end Sys2Proof.Machine
end

