-- ==== Sys2Proof/Machine/Step.lean ====
section
/-! DEFINITION. The step function. -/

namespace Sys2Proof.Machine

/-- One step: the running command executes, or the next event of the outside world takes place. -/
def step (s : State) : Host.Outcome State Fault Refusal := s.advance

/-- The block fetches nothing (R56): a command comes to it by a write of CMD, which captures the word
(R95). This puts the word of a table row there, so that the next step runs it. Assumption 7. -/
def State.withFetchWord (s : State) (nbits w : Nat) : State :=
  s.placeCommand (BitVec.ofNat 32 (w % 2 ^ nbits))

end Sys2Proof.Machine
end

