-- ==== Sys2Proof/Safety.lean ====
section
/-! DEFINITION. The terms the claims are stated in: the invariant of the machine, when a command fails a
check, and what a command may write. They are written from the spec's rules, apart from the machine's
own functions for the same things. -/

namespace Sys2Proof.Machine

/-! ### The invariant -/

/-- EV and the engine context: at their reset values, or as SETUP built them, with the constants in words 0
to 3 (R31, R34 to R37). -/
abbrev engineOk (ev : Bool) (e : Engine) : Prop :=
  (ev = false → e = .zero) ∧
  (ev = true → legalRounds e.r ∧ legalNonce e.nv ∧
    e.s[0] = 0x61707865 ∧ e.s[1] = 0x3320646e ∧ e.s[2] = 0x79622d32 ∧ e.s[3] = 0x6b206574)

/-- AV, AK, TS and AUTH_FAIL: at their reset values, or AK and TS as AEAD_INIT left them (R38). An
authentication failure needs a context. -/
abbrev aeadOk (av : Bool) (ak : Vector Byte 32) (ts : Nat) (authFail : Bool) : Prop :=
  (av = false → ak = .replicate 32 0 ∧ ts = 0 ∧ authFail = false) ∧ (av = true → legalTag ts)

/-- FATAL, ERR, ERRCMD and the running command: the error record is empty while FATAL = 0, and while
FATAL = 1 it holds a code and no command runs (R40, R42, R305). -/
abbrev recordOk (fatal : Bool) (err : ErrCode) (errcmd : Word) (running : Option Word) : Prop :=
  (fatal = false → err = .noError ∧ errcmd = 0) ∧ (fatal = true → err ≠ .noError ∧ running = none)

/-- MBUF of n bytes is in canonical form and lists only offsets that exist (R80). -/
abbrev memoryOk (n : Nat) (m : List Host.Cell) : Prop := Memory.wf m ∧ ∀ c ∈ m, c.1 < n

/-- The invariant of the machine. -/
structure State.Inv (s : State) : Prop where
  build  : s.build.wf
  memory : memoryOk s.build.mbufBytes s.mbuf
  engine : engineOk s.ev s.eng
  aead   : aeadOk s.av s.ak s.ts s.authFail
  record : recordOk s.fatal s.err s.errcmd s.running

/-! ### When a command fails (60_exceptions.md rules R301 and R302) -/

/-- The length of the region a command writes at DST: LEN for CRYPT and ONESHOT, LEN + TS for SEAL, the
body for OPEN, nothing for the others (R301, R341). -/
def State.outLen (s : State) : Instr → Nat
  | .crypt | .oneshot _ _ => s.len.val
  | .aeadSeal _ => s.len.val + s.ts
  | .aeadOpen _ => s.len.val - s.ts
  | .nop | .perm _ _ | .block | .setup _ _ | .hchacha | .setctr | .setnonce _ | .aeadInit _ => 0

/-- The length of the additional data a command reads. -/
def State.aadLenOf (s : State) : Instr → Nat
  | .aeadSeal _ | .aeadOpen _ => s.aadlen.val
  | .nop | .perm _ _ | .block | .setup _ _ | .hchacha | .crypt | .setctr | .setnonce _ | .oneshot _ _
  | .aeadInit _ => 0

/-- The command reads and writes MBUF. -/
def usesMbuf : Instr → Bool
  | .crypt | .oneshot _ _ | .aeadSeal _ | .aeadOpen _ => true
  | .nop | .perm _ _ | .block | .setup _ _ | .hchacha | .setctr | .setnonce _ | .aeadInit _ => false

/-- The causes of rule R301, each on its own: `s.Fails i c` says that command i, in state s, meets the
cause of code c. Which of several is reported is no part of this. -/
def State.Fails (s : State) (i : Instr) : ErrCode → Prop
  | .noError => False
  | .illegal => False
  | .notConfigured =>
    match i with
    | .block | .crypt | .setctr | .setnonce _ => s.ev = false
    | .aeadSeal _ | .aeadOpen _ => s.av = false
    | .nop | .perm _ _ | .setup _ _ | .hchacha | .oneshot _ _ | .aeadInit _ => False
  | .rounds =>
    match i with
    | .perm r _ | .setup r _ | .oneshot r _ => r ≠ 8 ∧ r ≠ 12 ∧ r ≠ 20
    | .nop | .block | .hchacha | .crypt | .setctr | .setnonce _ | .aeadInit _ | .aeadSeal _
    | .aeadOpen _ => False
  | .nonceSize =>
    match i with
    | .setup _ n | .oneshot _ n => n ≠ 8 ∧ n ≠ 12 ∧ n ≠ 24
    | .setnonce n => n ≠ s.eng.nv ∨ s.eng.nv = 24
    | .aeadSeal n | .aeadOpen n => n ≠ 12
    | .nop | .perm _ _ | .block | .hchacha | .crypt | .setctr | .aeadInit _ => False
  | .tagSize =>
    match i with
    | .aeadInit t => t = 0 ∨ 16 < t
    | .nop | .perm _ _ | .block | .setup _ _ | .hchacha | .crypt | .setctr | .setnonce _ | .oneshot _ _
    | .aeadSeal _ | .aeadOpen _ => False
  | .counter =>
    match i with
    | .setctr => s.eng.nv = 12 ∧ s.ctr.hi ≠ 0
    | .oneshot _ n => n = 12 ∧ s.ctr.hi ≠ 0
    | .nop | .perm _ _ | .block | .setup _ _ | .hchacha | .crypt | .setnonce _ | .aeadInit _
    | .aeadSeal _ | .aeadOpen _ => False
  | .length =>
    match i with
    | .crypt => s.eng.nv = 12 ∧ s.len.val > 2 ^ 38
    | .oneshot _ n => n = 12 ∧ s.len.val > 2 ^ 38
    | .aeadSeal _ => s.len.val > 2 ^ 38 - 64
    | .aeadOpen _ => s.len.val - s.ts > 2 ^ 38 - 64
    | .nop | .perm _ _ | .block | .setup _ _ | .hchacha | .setctr | .setnonce _ | .aeadInit _ => False
  | .dstShort => usesMbuf i ∧ s.dlen.val < s.outLen i
  | .range =>
    usesMbuf i ∧ ((s.len.val ≠ 0 ∧ s.build.mbufBytes < s.src.val + s.len.val)
      ∨ (s.dlen.val ≠ 0 ∧ s.build.mbufBytes < s.dst.val + s.dlen.val)
      ∨ (s.aadLenOf i ≠ 0 ∧ s.build.mbufBytes < s.aad.val + s.aadLenOf i))
  | .overlap =>
    usesMbuf i ∧ ((s.dst.val ≠ s.src.val ∧ overlap s.dst.val (s.outLen i) s.src.val s.len.val)
      ∨ overlap s.dst.val (s.outLen i) s.aad.val (s.aadLenOf i))

/-- The command passes every check of rule R302. -/
def State.Passes (s : State) (i : Instr) : Prop := ∀ c, ¬ s.Fails i c

/-- The little-endian value of a byte string as the sum of rule R231, `Σ X[i]·2^(8i)`. -/
def littleEndian (X : ByteString) : Nat :=
  ((List.range X.length).map fun i => (X.getD i 0).toNat * 2 ^ (8 * i)).sum

/-- How many values the counter of a variant has (R162). -/
def period (nv : Nat) : Nat := if nv = 12 then 2 ^ 32 else 2 ^ 64

/-! ### Register addresses of the claims (10_state.md rule R39) -/

/-- The offsets of the registers a host can write and read back: NONCE, the seven pairs, SIN. -/
abbrev readWriteOffset (off : Nat) : Prop :=
  off % 4 = 0 ∧ ((0x040 ≤ off ∧ off < 0x090) ∨ (0x0C0 ≤ off ∧ off < 0x100))

/-- The offsets of KEY0 to KEY7. -/
abbrev keyOffset (off : Nat) : Prop := off % 4 = 0 ∧ 0x020 ≤ off ∧ off < 0x040

/-- The offsets of the read-only registers: ID, ERRCMD, ENGCFG, AEADCFG, STATE, BLK, SUBKEY, TAG. -/
abbrev readOnlyOffset (off : Nat) : Prop :=
  off % 4 = 0 ∧ (off = 0x000 ∨ off = 0x010 ∨ off = 0x014 ∨ off = 0x018 ∨ (0x100 ≤ off ∧ off < 0x1B0))

/-- The offsets of the registers that ask for all four strobes: CMD, CTRL, KEY, and those of
`readWriteOffset` (R84). -/
abbrev fullStrobeOffset (off : Nat) : Prop :=
  off = 0x004 ∨ off = 0x00C ∨ keyOffset off ∨ readWriteOffset off

/-- A write of such a register with a lane missing. -/
def partialStrobe : HostTxn → Prop
  | .write off size _ strobe => fullStrobeOffset off ∧ size = .word ∧ strobe ≠ 0b1111#4
  | .read _ _ => False

/-- The offsets of the window at which no register is (R39). -/
abbrev unmappedOffset (off : Nat) : Prop :=
  off % 4 ≠ 0 ∨ off = 0x01C ∨ (0x090 ≤ off ∧ off < 0x0C0) ∨ (0x1B0 ≤ off ∧ off < 0x1000)

/-! ### What is secret (10_state.md rules R38, R45, R50) -/

/-- Two states differ at most in KEY, AK, KS and the words 4 to 11 of ST. -/
def State.sameButSecrets (s t : State) : Prop :=
  t = { s with
    key := t.key, ak := t.ak,
    eng := { s.eng with ks := t.eng.ks, s := t.eng.s } } ∧
  ∀ i (h : i < 16), i < 4 ∨ 11 < i → t.eng.s[i] = s.eng.s[i]

end Sys2Proof.Machine
end

