-- ==== Sys2Proof/Certificates/Slice0/Obligations.lean ====
section
/-! DEFINITION. The statements for the provers. Each one's docstring names the rule or the section of the
spec it comes from. A statement about a free value (MBUF_INIT, the bytes of an aborted command, the external
Poly1305) holds for every value of it. -/

open Sys2Proof Sys2Proof.Machine Host

/-! ### Encoding (30_encoding.md) -/

/-- Rules R112, R113, R115: decoding the word of a well-formed command gives the command back, with every
field at every value it can hold. -/
def Obligations.DecodeOfEncode : Prop :=
  ∀ i : Instr, i.wellFormed = true → decode (encode i) = .ok i

/-- Rules R112, R113: a word that decodes is the word of the command it decodes as, and that command is
well formed. So no two words decode alike. -/
def Obligations.EncodeOfDecode : Prop :=
  ∀ (w : Word) (i : Instr), decode w = .ok i → encode i = w ∧ i.wellFormed = true

/-- The rows of rule R113 for a word w: match, mask, and the command with the fields cut out of w. -/
def Sys2Proof.Machine.tableRows (w : Word) : List (Word × Word × Instr) :=
  let rnd := w.toNat / 2 ^ 8 % 2 ^ 8
  let nlen := w.toNat / 2 ^ 16 % 2 ^ 5
  let ff := w.toNat / 2 ^ 21 % 2 == 1
  let tsz := w.toNat / 2 ^ 24 % 2 ^ 5
  [(0x00000000, 0xFFFFFFFF, .nop), (0x00000001, 0xFFDF00FF, .perm rnd ff),
    (0x00000002, 0xFFFFFFFF, .block), (0x00000003, 0xFFE000FF, .setup rnd nlen),
    (0x00000004, 0xFFFFFFFF, .hchacha), (0x00000005, 0xFFFFFFFF, .crypt),
    (0x00000006, 0xFFFFFFFF, .setctr), (0x00000007, 0xFFE0FFFF, .setnonce nlen),
    (0x00000008, 0xFFE000FF, .oneshot rnd nlen), (0x00000009, 0xE0FFFFFF, .aeadInit tsz),
    (0x0000000A, 0xFFE0FFFF, .aeadSeal nlen), (0x0000000B, 0xFFE0FFFF, .aeadOpen nlen)]

/-- Rule R113: a word decodes as a row's command, with the row's fields, if and only if it matches the row;
no word matches two rows. -/
def Obligations.DecodesExactlyTheTable : Prop :=
  ∀ (w : Word),
    (∀ r ∈ tableRows w, w &&& r.2.1 = r.1 → decode w = .ok r.2.2) ∧
    ((∀ r ∈ tableRows w, w &&& r.2.1 ≠ r.1) → ∃ e, decode w = .error e) ∧
    ∀ r ∈ tableRows w, ∀ q ∈ tableRows w, w &&& r.2.1 = r.1 → w &&& q.2.1 = q.1 → r = q

/-- Rule R117: the words of the assembler's table decode as the statements they stand for. -/
def Obligations.WordsOfTheAssembler : Prop :=
  decode 0x00000000 = .ok .nop ∧ decode 0x00201401 = .ok (.perm 20 true) ∧
  decode 0x00001401 = .ok (.perm 20 false) ∧ decode 0x00000002 = .ok .block ∧
  decode 0x000C1403 = .ok (.setup 20 12) ∧ decode 0x00081403 = .ok (.setup 20 8) ∧
  decode 0x00181403 = .ok (.setup 20 24) ∧ decode 0x000C0C03 = .ok (.setup 12 12) ∧
  decode 0x000C0803 = .ok (.setup 8 12) ∧ decode 0x00000004 = .ok .hchacha ∧
  decode 0x00000005 = .ok .crypt ∧ decode 0x00000006 = .ok .setctr ∧
  decode 0x000C0007 = .ok (.setnonce 12) ∧ decode 0x000C1408 = .ok (.oneshot 20 12) ∧
  decode 0x10000009 = .ok (.aeadInit 16) ∧ decode 0x01000009 = .ok (.aeadInit 1) ∧
  decode 0x000C000A = .ok (.aeadSeal 12) ∧ decode 0x000C000B = .ok (.aeadOpen 12)

/-! ### The step (45_host_access.md, 20_memory.md) -/

/-- Rules R91, R274: when the captured command word decodes as i, and nothing the host does comes first,
the step is exec of i, with the bus response of an earlier step gone and the host's `wait` used up. The queue of
events is the model's choice (log entry 5). -/
def Obligations.StepRunsTheDecodedCommand : Prop :=
  ∀ (s : State) (w : Word) (i : Instr), s.running = some w → decode w = .ok i →
    (s.host = [] → step s = exec i { s with resp := none }) ∧
    (∀ rest, s.host = .wait :: rest → step s = exec i { s with resp := none, host := rest }) ∧
    (∀ t u rest, s.held = some t → s.host = .txn u :: rest → step s = exec i { s with resp := none })

/-- Rules R114, R303: an illegal word leaves the error record, DONE, BUSY = 0 and nothing else but that the bus
response of an earlier step is gone and the host's `wait` used up, whether nothing is to come from the host, it
waits, or it has a transaction held and another to come (log entry 5). -/
def Obligations.IllegalWordIsFatal : Prop :=
  ∀ (s : State) (w : Word) (e : IllegalWord), s.running = some w → decode w = .error e → s.fatal = false →
    let t : State := { s with
      fatal := true, err := .illegal, errcmd := w, done := true, running := none, resp := none }
    (s.host = [] → step s = .next t) ∧
    (∀ rest, s.host = .wait :: rest → step s = .next { t with host := rest }) ∧
    (∀ x u rest, s.held = some x → s.host = .txn u :: rest → step s = .next t)

/-- Rules R300, R307: no step faults and none is refused. -/
def Obligations.EveryStepAnswers : Prop := ∀ s : State, ∃ t, step s = .next t

/-! ### Errors (60_exceptions.md) -/

/-- Rules R302, R303: a command that meets the cause of a fatal error reports the one with the lowest code
and changes the error record, DONE and BUSY, nothing else. That a command with nothing to write and DLEN > 0 meets
the cause of RANGE when (DST, DLEN) is not inside MBUF is the model's choice (log entry 19). -/
def Obligations.FatalReportsTheLowestCode : Prop :=
  ∀ (i : Instr) (s : State) (c : ErrCode), s.fatal = false → s.Fails i c →
    (∀ d, s.Fails i d → c.code.toNat ≤ d.code.toNat) →
    exec i s = .next { s with
      fatal := true, err := c, errcmd := encode i, done := true, running := none }

/-- Rules R302, R309: a command that meets no cause completes, sets DONE and leaves the error record
alone. -/
def Obligations.PassingCommandCompletes : Prop :=
  ∀ (i : Instr) (s : State), s.fatal = false → s.Passes i →
    ∃ t, exec i s = .next t ∧ t.done = true ∧ t.running = none ∧
      t.fatal = false ∧ t.err = s.err ∧ t.errcmd = s.errcmd

/-- Rule R305: while FATAL = 1 a write of CMD is answered OKAY and starts nothing, and every other access
works as if FATAL were 0 (a read of STATUS shows FATAL itself). The first clause, that a word which is captured
although FATAL = 1 is dropped, is about states no run reaches and is the model's choice (log entry 12). -/
def Obligations.CommandsAreDroppedWhileFatal : Prop :=
  (∀ (i : Instr) (s : State), s.fatal = true → exec i s = .next { s with running := none }) ∧
  (∀ (s : State) (d : Word), s.fatal = true → s.hostWrite 0x004 .word d 0b1111#4 = some s) ∧
  (∀ (s : State) (off : Nat) (size : Size) (d : Word) (strobe : BitVec 4), off ≠ 0x004 →
    (s.hostWrite off size d strobe).map (fun t => { t with fatal := true })
      = State.hostWrite { s with fatal := true } off size d strobe) ∧
  (∀ (s : State) (off : Nat) (size : Size), off ≠ 0x008 →
    State.hostRead { s with fatal := true } off size = s.hostRead off size)

/-- Rule R306: FATAL, ERR and ERRCMD change only at reset (or power-on). The premise on `running` is part
of the invariant: no command runs while FATAL = 1. The events are the model's choice (log entry 5), and so is that a
held transaction comes before a reset that is the next event, so that FATAL is still 1 after it (log entry 16). -/
def Obligations.OnlyResetLeavesTheFatalState : Prop :=
  ∀ s t : State, s.fatal = true → s.running = none → step s = .next t →
    (t.fatal = true ∧ t.err = s.err ∧ t.errcmd = s.errcmd ∧ t.running = none) ∨
    (s.held = none ∧ ∃ rest, s.host = .reset :: rest ∨ s.host = .powerOn :: rest)

/-- Rule R354: a host that has cleared DONE and polls STATUS in the fatal state reads the same word with
DONE = 0 every time, however often it reads. The queue of reads is the model's choice (log entry 5). -/
def Obligations.PollingInTheFatalStateNeverEnds : Prop :=
  ∀ (n : Nat) (s : State), s.fatal = true → s.done = false → s.running = none → s.held = none →
    s.host = List.replicate (n + 1) (.txn (.read 0x008 .word)) →
    ∃ t, Sys2Proof.core.run (n + 1) s = .next t ∧ t.resp = some (.readOkay s.statusWord) ∧
      t.fatal = true ∧ t.done = false ∧ s.statusWord.getLsbD 1 = false

/-! ### The core (40_core.md) -/

/-- Rule R141: the quarter-round at four distinct indices replaces the four words there as the rule's lines
have it (with Lean's own rotation) and no other. -/
def Obligations.QuarterRoundOfTheRule : Prop :=
  ∀ (x : Words16) (a b c d : Fin 16), [a, b, c, d].Nodup →
    let a1 := x[a] + x[b]; let d1 := (x[d] ^^^ a1).rotateLeft 16
    let c1 := x[c] + d1;   let b1 := (x[b] ^^^ c1).rotateLeft 12
    let a2 := a1 + b1;     let d2 := (d1 ^^^ a2).rotateLeft 8
    let c2 := c1 + d2;     let b2 := (b1 ^^^ c2).rotateLeft 7
    (qr x a b c d)[a] = a2 ∧ (qr x a b c d)[b] = b2 ∧ (qr x a b c d)[c] = c2 ∧ (qr x a b c d)[d] = d2 ∧
    ∀ i, i ∉ [a, b, c, d] → (qr x a b c d)[i] = x[i]

/-- Rule R142: a column round is the quarter-round on each of the four columns, a diagonal round that on each of
the four diagonals, a double round the one and then the other; quarter-rounds on disjoint words may be done in
either order. R142 infers the last clause for the four quarter-rounds of one round ("Their order within the round
therefore does not change the result", derived by the spec from R141, the index sets being pairwise disjoint); here it
is for any two quarter-rounds on disjoint words. -/
def Obligations.RoundsAreColumnsAndDiagonals : Prop :=
  (∀ (x : Words16) (j : Fin 4),
    (let q := quarterRound ⟨x[j.val], x[4 + j.val], x[8 + j.val], x[12 + j.val]⟩
     let y := columnRound x
     y[j.val] = q.a ∧ y[4 + j.val] = q.b ∧ y[8 + j.val] = q.c ∧ y[12 + j.val] = q.d) ∧
    (let q := quarterRound
        ⟨x[j.val], x[4 + (j.val + 1) % 4], x[8 + (j.val + 2) % 4], x[12 + (j.val + 3) % 4]⟩
     let y := diagonalRound x
     y[j.val] = q.a ∧ y[4 + (j.val + 1) % 4] = q.b ∧ y[8 + (j.val + 2) % 4] = q.c
       ∧ y[12 + (j.val + 3) % 4] = q.d) ∧
    doubleRound x = diagonalRound (columnRound x)) ∧
  ∀ (x : Words16) (a b c d e f g h : Fin 16), [a, b, c, d, e, f, g, h].Nodup →
    qr (qr x a b c d) e f g h = qr (qr x e f g h) a b c d

/-- Rule R145: the counter of the 12-byte variant is word 12 alone, that of the others words 12 and 13; it goes
up by one, a wrap is silent, and no other word changes. -/
def Obligations.CounterIncrement : Prop :=
  ∀ (x : Words16) (nv : Nat),
    (nv = 12 → inc x nv = x.set 12 (x[12] + 1)) ∧
    (nv ≠ 12 → (inc x nv)[12].toNat + 2 ^ 32 * (inc x nv)[13].toNat
        = (x[12].toNat + 2 ^ 32 * x[13].toNat + 1) % 2 ^ 64 ∧
      ∀ i (h : i < 16), i ≠ 12 → i ≠ 13 → (inc x nv)[i] = x[i])

/-- Rule R148, corner case: SIN all zero gives BLK all zero, for every legal RND and both values of FF. -/
def Obligations.PermOfZerosIsZero : Prop :=
  ∀ (rnd : Nat) (ff : Bool) (s : State), legalRounds rnd → s.fatal = false → s.sin = .replicate 16 0 →
    ∃ t, exec (.perm rnd ff) s = .next t ∧ t.blk = .replicate 16 0

/-- Rule R275: NOP sets DONE and changes nothing else. -/
def Obligations.NopResult : Prop :=
  ∀ s : State, s.fatal = false → exec .nop s = .next { s with done := true, running := none }

/-- Rules R143, R148: PERM writes the words of SIN after RND/2 double rounds, plus the words of SIN when
FF = 1, to BLK, and changes nothing else. -/
def Obligations.PermResult : Prop :=
  ∀ (rnd : Nat) (ff : Bool) (s : State), legalRounds rnd → s.fatal = false →
    ∃ t, exec (.perm rnd ff) s = .next t ∧
      (∀ i (h : i < 16), t.blk[i] =
        (doubleRound^[rnd / 2] s.sin)[i] + (if ff = true then s.sin[i] else 0)) ∧
      t = { s with blk := t.blk, done := true, running := none }

/-- Rules R144 to R146, R149: BLOCK writes the words of the engine's state after ERND/2 double rounds plus
those words to BLK, advances the counter by one with a silent wrap, and changes nothing else. -/
def Obligations.BlockResult : Prop :=
  ∀ s : State, s.ev = true → s.fatal = false →
    ∃ t, exec .block s = .next t ∧
      (∀ i (h : i < 16), t.blk[i] = (doubleRound^[s.eng.r / 2] s.eng.s)[i] + s.eng.s[i]) ∧
      counter t.eng.s s.eng.nv = (counter s.eng.s s.eng.nv + 1) % period s.eng.nv ∧
      (∀ i (h : i < 16), i ≠ 12 → (i = 13 → s.eng.nv = 12) → t.eng.s[i] = s.eng.s[i]) ∧
      t = { s with blk := t.blk, eng := { s.eng with s := t.eng.s }, done := true, running := none }

/-! ### Building an engine (41_state_init.md, 42_hchacha.md) -/

/-- Rules R160, R161, R165: SETUP puts the constants, the key and the nonce into the words of ST with the
counter 0 (for the 24-byte variant words 4 to 11 are `SetupUsesTheHchachaSubkey`), sets the rounds, the
variant and EV, empties the buffer, and changes nothing else. -/
def Obligations.SetupResult : Prop :=
  ∀ (rnd nlen : Nat) (s : State), legalRounds rnd → legalNonce nlen → s.fatal = false →
    ∃ t, exec (.setup rnd nlen) s = .next t ∧
      t.eng.s[0] = 0x61707865 ∧ t.eng.s[1] = 0x3320646e ∧
      t.eng.s[2] = 0x79622d32 ∧ t.eng.s[3] = 0x6b206574 ∧
      (nlen ≠ 24 → ∀ j (h : j < 8), t.eng.s[4 + j] = s.key[j]) ∧
      t.eng.s[12] = 0 ∧
      (nlen = 8 → t.eng.s[13] = 0 ∧ t.eng.s[14] = s.nonce[0] ∧ t.eng.s[15] = s.nonce[1]) ∧
      (nlen = 12 → t.eng.s[13] = s.nonce[0] ∧ t.eng.s[14] = s.nonce[1] ∧ t.eng.s[15] = s.nonce[2]) ∧
      (nlen = 24 → t.eng.s[13] = 0 ∧ t.eng.s[14] = s.nonce[4] ∧ t.eng.s[15] = s.nonce[5]) ∧
      t = { s with
        eng := { s := t.eng.s, ks := s.eng.ks, off := 0, r := rnd, nv := nlen }
        ev := true, done := true, running := none }

/-- Rules R180, R181: HCHACHA runs ten double rounds on constants, key and the first four nonce words, and
puts words 0 to 3 and 12 to 15 of the outcome, nothing added, into SUBKEY. -/
def Obligations.HchachaResult : Prop :=
  ∀ s : State, s.fatal = false →
    let x := doubleRound^[10] #v[0x61707865, 0x3320646e, 0x79622d32, 0x6b206574,
      s.key[0], s.key[1], s.key[2], s.key[3], s.key[4], s.key[5], s.key[6], s.key[7],
      s.nonce[0], s.nonce[1], s.nonce[2], s.nonce[3]]
    exec .hchacha s = .next { s with
      subkey := #v[x[0], x[1], x[2], x[3], x[12], x[13], x[14], x[15]]
      done := true, running := none }

/-- Rules R161, R181: from one state, SETUP of the 24-byte variant puts into words 4 to 11 of ST the very
words HCHACHA puts into SUBKEY. -/
def Obligations.SetupUsesTheHchachaSubkey : Prop :=
  ∀ (rnd : Nat) (s : State), legalRounds rnd → s.fatal = false →
    ∃ t u, exec (.setup rnd 24) s = .next t ∧ exec .hchacha s = .next u ∧
      ∀ j (h : j < 8), t.eng.s[4 + j] = u.subkey[j]

/-! ### Streaming (43_engine.md) -/

/-- Rule R192: from an empty buffer, byte j is XORed with byte `j mod 64` of the block at counter
`c + j div 64`, the counter ends `ceil(n/64)` further, and the offset is `n mod 64`. Rule R191: the buffer then
holds the block a remainder began, and is as before where there is none. From a buffer that is not empty (R191, step
1), the bytes KS[OFF..64) are used first; a request they meet moves the offset and changes nothing else, with 64
counting as 0, and what is left of a longer one is streamed from the empty buffer. -/
def Obligations.KeystreamPosition : Prop :=
  (∀ (e : Engine) (S : ByteString), e.off = 0 →
    (∀ j (h : j < S.length) (h' : j < (xks e S).1.length), (xks e S).1[j] = S[j] ^^^
      (block (setctr e.s e.nv ((counter e.s e.nv + j / 64) % period e.nv)) e.r)[j % 64]) ∧
    (xks e S).1.length = S.length ∧
    counter (xks e S).2.s e.nv = (counter e.s e.nv + (S.length + 63) / 64) % period e.nv ∧
    (xks e S).2.off.val = S.length % 64 ∧
    (S.length % 64 = 0 → (xks e S).2.ks = e.ks) ∧
    (S.length % 64 ≠ 0 → (xks e S).2.ks =
      block (setctr e.s e.nv ((counter e.s e.nv + S.length / 64) % period e.nv)) e.r)) ∧
  ∀ (e : Engine) (S : ByteString), 0 < e.off.val →
    (∀ j (_ : j < S.length) (_ : j < 64 - e.off.val) (_ : j < (xks e S).1.length),
      (xks e S).1[j] = S[j] ^^^ e.ks[e.off.val + j]) ∧
    (xks e S).1.length = S.length ∧
    (S.length ≤ 64 - e.off.val →
      ∃ off : Fin 64, off.val = (e.off.val + S.length) % 64 ∧ (xks e S).2 = { e with off := off }) ∧
    (64 - e.off.val < S.length →
      let rest := xks { e with off := 0 } (S.drop (64 - e.off.val))
      (xks e S).1.drop (64 - e.off.val) = rest.1 ∧ (xks e S).2 = rest.2)

/-- Rule R192: pieces streamed one after the other give the bytes of the whole, and an engine that differs
at most in a buffer nobody reads, `off` being 0 (R33, log entry 14). -/
def Obligations.StreamingInPieces : Prop :=
  ∀ (e : Engine) (S T : ByteString),
    let p := xks e S
    let q := xks p.2 T
    let w := xks e (S ++ T)
    w.1 = p.1 ++ q.1 ∧ w.2.s = q.2.s ∧ w.2.off = q.2.off ∧ w.2.r = q.2.r ∧ w.2.nv = q.2.nv ∧
      (w.2.off ≠ 0 → w.2.ks = q.2.ks)

/-- Rules R89, R193: CRYPT, when no check fails, writes the streamed bytes of the source region to the
destination, leaves the streamed engine, and changes nothing else. -/
def Obligations.CryptResult : Prop :=
  ∀ s : State, s.fatal = false → s.Passes .crypt →
    let d := xks s.eng (s.memRead s.src.val s.len.val)
    ∃ t, exec .crypt s = .next t ∧
      (∀ j (h : j < d.1.length), t.mbufByte (s.dst.val + j) = d.1[j]) ∧ d.1.length = s.len.val ∧
      (∀ a, a < s.dst.val ∨ s.dst.val + s.len.val ≤ a → t.mbufByte a = s.mbufByte a) ∧
      t = { s with mbuf := t.mbuf, eng := d.2, done := true, running := none }

/-- Rules R86, R88, R193, corner case: a CRYPT of no bytes with no capacity is accepted wherever SRC and DST
point, and changes nothing but DONE and BUSY. With DLEN > 0 the rule's texts differ (log entry 19). -/
def Obligations.EmptyCryptChangesNothing : Prop :=
  ∀ s : State, s.fatal = false → s.ev = true → s.len.val = 0 → s.dlen.val = 0 →
    exec .crypt s = .next { s with done := true, running := none }

/-- Rules R163, R195: SETCTR puts CTR into the counter field, empties the buffer, and changes nothing
else. -/
def Obligations.SetctrResult : Prop :=
  ∀ s : State, s.fatal = false → s.ev = true → (s.eng.nv = 12 → s.ctr.hi = 0) →
    exec .setctr s = .next { s with
      eng := { s.eng with
        s := if s.eng.nv = 12 then s.eng.s.set 12 s.ctr.lo
             else (s.eng.s.set 12 s.ctr.lo).set 13 s.ctr.hi
        off := 0 }
      done := true, running := none }

/-- Rules R164, R196: SETNONCE puts the nonce words into the nonce field, empties the buffer, and changes
nothing else; the counter stays. -/
def Obligations.SetnonceResult : Prop :=
  ∀ (nlen : Nat) (s : State), s.fatal = false → s.ev = true → s.eng.nv = nlen → nlen = 8 ∨ nlen = 12 →
    exec (.setnonce nlen) s = .next { s with
      eng := { s.eng with
        s := if nlen = 12 then ((s.eng.s.set 13 s.nonce[0]).set 14 s.nonce[1]).set 15 s.nonce[2]
             else (s.eng.s.set 14 s.nonce[0]).set 15 s.nonce[1]
        off := 0 }
      done := true, running := none }

/-- Rules R192, R197: ONESHOT, when no check fails, XORs the source region with the keystream from counter
CTR on, writes it to the destination, and changes nothing else. -/
def Obligations.OneshotResult : Prop :=
  ∀ (rnd nlen : Nat) (s : State), s.fatal = false → s.Passes (.oneshot rnd nlen) →
    ∃ t, exec (.oneshot rnd nlen) s = .next t ∧
      (∀ j, j < s.len.val → t.mbufByte (s.dst.val + j) = s.mbufByte (s.src.val + j) ^^^
        (block (setctr (init s.keyBytes.toList (s.nonceBytes nlen) nlen) nlen
          ((s.ctr.val + j / 64) % period nlen)) rnd)[j % 64]) ∧
      (∀ a, a < s.dst.val ∨ s.dst.val + s.len.val ≤ a → t.mbufByte a = s.mbufByte a) ∧
      t = { s with mbuf := t.mbuf, done := true, running := none }

/-- Rule R197: ONESHOT in place, twice, gives the message back. -/
def Obligations.OneshotTwiceRestores : Prop :=
  ∀ (rnd nlen : Nat) (s : State), s.fatal = false → s.Passes (.oneshot rnd nlen) → s.dst = s.src →
    ∃ t u, exec (.oneshot rnd nlen) s = .next t ∧ exec (.oneshot rnd nlen) t = .next u ∧
      ∀ a, u.mbufByte a = s.mbufByte a

/-- Rule R195: SETUP, SETCTR and CRYPT write the same message buffer as one ONESHOT at that counter. -/
def Obligations.SetctrThenCryptIsOneshot : Prop :=
  ∀ (rnd nlen : Nat) (s : State), s.fatal = false → s.Passes (.oneshot rnd nlen) →
    ∃ t u v o, exec (.setup rnd nlen) s = .next t ∧ exec .setctr t = .next u ∧ exec .crypt u = .next v ∧
      exec (.oneshot rnd nlen) s = .next o ∧ v.mbuf = o.mbuf

/-! ### AEAD (44_aead.md) -/

/-- Rule R236: AEAD_INIT copies the key and the tag size, sets AV, and changes nothing else; AEADCFG then
reads the tag size beside NONCESIZE. -/
def Obligations.AeadInitResult : Prop :=
  ∀ (tsz : Nat) (s : State), s.fatal = false → 1 ≤ tsz → tsz ≤ 16 →
    ∃ t, exec (.aeadInit tsz) s = .next t ∧
      (∀ j (h : j < 32), t.ak[j] = (s.key[j / 4] >>> (8 * (j % 4))).setWidth 8) ∧
      t.aeadcfgWord.toNat = 0xC00 + tsz ∧
      t = { s with ak := t.ak, ts := tsz, av := true, done := true, running := none }

/-- Rule R232: the MAC input is the additional data, zeros up to a multiple of 16, the ciphertext, zeros up to
a multiple of 16, and the two lengths, additional data first, in eight little-endian bytes each; so it is a whole
number of 16-byte chunks. Rule R231: the default Poly1305 of a key and a message is the clamped r, the chunks of 16
bytes (the last may be shorter) each with a byte 1 after it, added and multiplied modulo 2^130 − 5, and s added
modulo 2^128, lowest byte first. -/
def Obligations.MacInputIsWholeChunks : Prop :=
  (∀ A C : ByteString,
    (∃ p q, p < 16 ∧ q < 16 ∧ (A.length + p) % 16 = 0 ∧ (C.length + q) % 16 = 0 ∧
      macin A C = A ++ List.replicate p 0#8 ++ C ++ List.replicate q 0#8
        ++ (List.range 8).map (fun k => BitVec.ofNat 8 (A.length / 2 ^ (8 * k)))
        ++ (List.range 8).map (fun k => BitVec.ofNat 8 (C.length / 2 ^ (8 * k)))) ∧
    (macin A C).length % 16 = 0) ∧
  ∀ (k : Vector Byte 32) (M : ByteString) (j : Nat) (h : j < 16),
    let r := littleEndian (k.toList.take 16) &&& 0x0ffffffc0ffffffc0ffffffc0fffffff
    let acc := (List.range ((M.length + 15) / 16)).foldl
      (fun acc i => (acc + littleEndian ((M.drop (16 * i)).take 16 ++ [0x01#8])) * r % (2 ^ 130 - 5)) 0
    (poly1305 .reference k M)[j]
      = BitVec.ofNat 8 ((acc + littleEndian (k.toList.drop 16)) % 2 ^ 128 / 2 ^ (8 * j))

/-- Rule R235: the comparison holds exactly when the two tags are equal in all TS bytes. -/
def Obligations.TagComparisonIsEquality : Prop :=
  ∀ (T X : ByteString) (ts : Nat), ts ≤ T.length → ts ≤ X.length →
    (tagEqual T X ts = true ↔ ∀ j, j < ts → T[j]? = X[j]?)

/-- The keystream byte j of SEAL and OPEN: counter 1 onward under AK and the 12-byte nonce (R233). -/
def Sys2Proof.Machine.State.aeadKeystream (s : State) (j : Nat) : Byte :=
  (block (setctr (init s.ak.toList (s.nonceBytes 12) 12) 12 (1 + j / 64)) 20)[j % 64]

/-- The 16 MAC bytes of SEAL and OPEN for a ciphertext body: the one-time key is bytes 0 to 31 of block 0,
the message is the framed additional data and body (R232, R233). -/
def Sys2Proof.Machine.State.aeadMac (s : State) (C : ByteString) : Vector Byte 16 :=
  poly1305 s.build.mac
    (Vector.ofFn fun j : Fin 32 => (block (init s.ak.toList (s.nonceBytes 12) 12) 20)[j.val])
    (macin (s.memRead s.aad.val s.aadlen.val) C)

/-- Rules R233, R234, R237: SEAL, when no check fails, writes the plaintext XORed with the keystream from
counter 1 on and then the first TS bytes of the MAC over that ciphertext, puts the tag into TAG
zero-padded, clears AUTH_FAIL, and changes nothing else. The premise on TS holds in every state that meets
the invariant. -/
def Obligations.SealResult : Prop :=
  ∀ s : State, s.fatal = false → s.ts ≤ 16 → s.Passes (.aeadSeal 12) →
    ∃ (C : ByteString) (t : State), exec (.aeadSeal 12) s = .next t ∧ C.length = s.len.val ∧
      (∀ j (h : j < C.length), C[j] = s.mbufByte (s.src.val + j) ^^^ s.aeadKeystream j ∧
        t.mbufByte (s.dst.val + j) = C[j]) ∧
      (∀ j (h : j < 16), j < s.ts → t.mbufByte (s.dst.val + s.len.val + j) = (s.aeadMac C)[j]) ∧
      (∀ a, a < s.dst.val ∨ s.dst.val + s.len.val + s.ts ≤ a → t.mbufByte a = s.mbufByte a) ∧
      (∀ j (h : j < 16), (t.tag[j / 4] >>> (8 * (j % 4))).setWidth 8
        = if j < s.ts then (s.aeadMac C)[j] else 0#8) ∧
      t = { s with mbuf := t.mbuf, tag := t.tag, authFail := false, done := true, running := none }

/-- Rules R235, R238: OPEN of a message long enough to hold a tag, whose tag is the first TS bytes of the
MAC over its body, writes the body XORed with the keystream, clears TAG and AUTH_FAIL, and changes nothing
else. -/
def Obligations.OpenAcceptsTheRightTag : Prop :=
  ∀ s : State, s.fatal = false → s.ts ≤ 16 → s.Passes (.aeadOpen 12) → s.ts ≤ s.len.val →
    let C := s.memRead s.src.val (s.len.val - s.ts)
    (∀ j (h : j < 16), j < s.ts →
      s.mbufByte (s.src.val + (s.len.val - s.ts) + j) = (s.aeadMac C)[j]) →
    ∃ t, exec (.aeadOpen 12) s = .next t ∧
      (∀ j, j < s.len.val - s.ts →
        t.mbufByte (s.dst.val + j) = s.mbufByte (s.src.val + j) ^^^ s.aeadKeystream j) ∧
      (∀ a, a < s.dst.val ∨ s.dst.val + (s.len.val - s.ts) ≤ a → t.mbufByte a = s.mbufByte a) ∧
      t = { s with
        mbuf := t.mbuf, tag := .replicate 4 0, authFail := false, done := true, running := none }

/-- Rules R238, R240, R304: OPEN of a message too short to hold a tag, or with any wrong tag byte, sets
AUTH_FAIL, clears TAG, and changes nothing else: not one byte of MBUF. -/
def Obligations.OpenRejectsAnyOtherMessage : Prop :=
  ∀ s : State, s.fatal = false → s.ts ≤ 16 → s.Passes (.aeadOpen 12) →
    (s.len.val < s.ts ∨ ∃ j, ∃ h : j < 16, j < s.ts ∧
      s.mbufByte (s.src.val + (s.len.val - s.ts) + j) ≠
        (s.aeadMac (s.memRead s.src.val (s.len.val - s.ts)))[j]) →
    exec (.aeadOpen 12) s = .next { s with
      tag := .replicate 4 0, authFail := true, done := true, running := none }

/-- Rule R242: what SEAL wrote, OPEN accepts and turns back into the plaintext, under the same key, tag
size, nonce and additional data, wherever the message, the additional data and the output lie by then. R242 is the
spec's own inference: "derived: from rules R233, R237 and R238, since OPEN recomputes the same MAC over the same C and
XOR with the same keystream inverts the encryption". -/
def Obligations.SealThenOpenRoundTrip : Prop :=
  ∀ s t u : State, s.fatal = false → s.ts ≤ 16 → s.Passes (.aeadSeal 12) →
    exec (.aeadSeal 12) s = .next t →
    u.fatal = false → u.Passes (.aeadOpen 12) →
    u.build.mac = s.build.mac → u.ak = s.ak → u.ts = s.ts → u.nonceBytes 12 = s.nonceBytes 12 →
    u.len.val = s.len.val + s.ts →
    (∀ j, j < s.len.val + s.ts → u.mbufByte (u.src.val + j) = t.mbufByte (s.dst.val + j)) →
    u.memRead u.aad.val u.aadlen.val = s.memRead s.aad.val s.aadlen.val →
    ∃ v, exec (.aeadOpen 12) u = .next v ∧ v.authFail = false ∧
      ∀ j, j < s.len.val → v.mbufByte (u.dst.val + j) = s.mbufByte (s.src.val + j)

/-! ### Frames of all commands (10_state.md) -/

/-- No command writes an argument register, IE, the build, or what is still to come from the host (the
argument registers are "written by the host", R30 (c)). -/
def Obligations.CommandsKeepTheArguments : Prop :=
  ∀ (i : Instr) (s t : State), exec i s = .next t →
    t.key = s.key ∧ t.nonce = s.nonce ∧ t.ctr = s.ctr ∧ t.src = s.src ∧ t.dst = s.dst ∧ t.len = s.len ∧
    t.dlen = s.dlen ∧ t.aad = s.aad ∧ t.aadlen = s.aadlen ∧ t.sin = s.sin ∧ t.ie = s.ie ∧
    t.build = s.build ∧ t.host = s.host ∧ t.held = s.held ∧ t.resp = s.resp ∧
    t.powerOns = s.powerOns ∧ t.aborts = s.aborts

/-- Rules R31 to R38, R241: only SETUP, CRYPT, BLOCK, SETCTR and SETNONCE write the engine context (and of
them only SETUP the rounds, the variant and EV), only AEAD_INIT the AEAD context. -/
def Obligations.OnlyTheirCommandsWriteTheContexts : Prop :=
  ∀ (i : Instr) (s t : State), exec i s = .next t →
    ((∀ r n, i ≠ .setup r n) → t.eng.r = s.eng.r ∧ t.eng.nv = s.eng.nv ∧ t.ev = s.ev) ∧
    ((∀ r n, i ≠ .setup r n) → i ≠ .crypt → i ≠ .block → i ≠ .setctr → (∀ n, i ≠ .setnonce n) →
      t.eng = s.eng) ∧
    ((∀ k, i ≠ .aeadInit k) → t.ak = s.ak ∧ t.ts = s.ts ∧ t.av = s.av)

/-- Rules R51 to R53: only BLOCK and PERM write BLK, only HCHACHA writes SUBKEY, only SEAL and OPEN write
TAG and AUTH_FAIL. -/
def Obligations.OnlyTheirCommandsWriteTheResults : Prop :=
  ∀ (i : Instr) (s t : State), exec i s = .next t →
    (i ≠ .block → (∀ r f, i ≠ .perm r f) → t.blk = s.blk) ∧
    (i ≠ .hchacha → t.subkey = s.subkey) ∧
    ((∀ n, i ≠ .aeadSeal n) → (∀ n, i ≠ .aeadOpen n) → t.tag = s.tag ∧ t.authFail = s.authFail)

/-- Rules R193, R197, R237, R238, R303: a command changes no byte of MBUF outside the region it writes at
DST: LEN bytes for CRYPT and ONESHOT, LEN + TS for SEAL, the body for OPEN, none for the others. -/
def Obligations.CommandsWriteOnlyTheirRegion : Prop :=
  ∀ (i : Instr) (s t : State), exec i s = .next t →
    ∀ a, a < s.dst.val ∨ s.dst.val + s.outLen i ≤ a → t.mbufByte a = s.mbufByte a

/-- Rule R308 (with R309): the interrupt output is IE ∧ DONE; a command that ran, whatever its outcome, leaves
DONE = 1, so that the output follows IE; writing 1 to bit 1 of STATUS clears DONE and with it the output, and
writing CTRL sets IE from bit 0, each changing nothing else. -/
def Obligations.CompletionAndInterrupt : Prop :=
  (∀ s : State, s.irq = true ↔ s.ie = true ∧ s.done = true) ∧
  (∀ (i : Instr) (s t : State), s.fatal = false → exec i s = .next t → t.done = true ∧ t.irq = s.ie) ∧
  (∀ (s : State) (d : Word) (strobe : BitVec 4), d.getLsbD 1 = true → strobe.getLsbD 0 = true →
    s.hostWrite 0x008 .word d strobe = some { s with done := false } ∧
    State.irq { s with done := false } = false) ∧
  ∀ (s : State) (d : Word), s.hostWrite 0x00C .word d 0b1111#4 = some { s with ie := d.getLsbD 0 } ∧
    State.irq { s with ie := d.getLsbD 0 } = (d.getLsbD 0 && s.done)

/-! ### The host's accesses (45_host_access.md, 20_memory.md) -/

/-- Rules R39 to R55: the read value of every register. -/
def Obligations.RegisterMapReads : Prop :=
  ∀ s : State,
    s.hostRead 0x000 .word = some 0x43433230 ∧ s.hostRead 0x004 .word = some 0 ∧
    s.hostRead 0x008 .word = some s.statusWord ∧
    s.hostRead 0x00C .word = some (if s.ie then 1 else 0) ∧
    s.hostRead 0x010 .word = some s.errcmd ∧ s.hostRead 0x014 .word = some s.engcfgWord ∧
    s.hostRead 0x018 .word = some s.aeadcfgWord ∧
    (∀ j (_ : j < 8), s.hostRead (0x020 + 4 * j) .word = some 0) ∧
    (∀ j (_ : j < 6), s.hostRead (0x040 + 4 * j) .word = some s.nonce[j]) ∧
    s.hostRead 0x058 .word = some s.ctr.lo ∧ s.hostRead 0x05C .word = some s.ctr.hi ∧
    s.hostRead 0x060 .word = some s.src.lo ∧ s.hostRead 0x064 .word = some s.src.hi ∧
    s.hostRead 0x068 .word = some s.dst.lo ∧ s.hostRead 0x06C .word = some s.dst.hi ∧
    s.hostRead 0x070 .word = some s.len.lo ∧ s.hostRead 0x074 .word = some s.len.hi ∧
    s.hostRead 0x078 .word = some s.dlen.lo ∧ s.hostRead 0x07C .word = some s.dlen.hi ∧
    s.hostRead 0x080 .word = some s.aad.lo ∧ s.hostRead 0x084 .word = some s.aad.hi ∧
    s.hostRead 0x088 .word = some s.aadlen.lo ∧ s.hostRead 0x08C .word = some s.aadlen.hi ∧
    (∀ j (_ : j < 16), s.hostRead (0x0C0 + 4 * j) .word = some s.sin[j]) ∧
    (∀ j (_ : j < 16), s.hostRead (0x100 + 4 * j) .word
      = some (if 4 ≤ j ∧ j ≤ 11 then 0 else s.eng.s[j])) ∧
    (∀ j (_ : j < 16), s.hostRead (0x140 + 4 * j) .word = some s.blk[j]) ∧
    (∀ j (_ : j < 8), s.hostRead (0x180 + 4 * j) .word = some s.subkey[j]) ∧
    (∀ j (_ : j < 4), s.hostRead (0x1A0 + 4 * j) .word = some s.tag[j])

/-- Rules R40, R301: the fields of STATUS, with the eleven numbers ERR can show, and its reserved bits, which
read 0. -/
def Obligations.StatusFields : Prop :=
  (∀ (s : State) (c : ErrCode), s.err = c → s.statusWord.extractLsb' 8 4 =
    match c with
    | .noError => 0#4
    | .illegal => 1#4
    | .notConfigured => 2#4
    | .rounds => 3#4
    | .nonceSize => 4#4
    | .tagSize => 5#4
    | .counter => 6#4
    | .length => 7#4
    | .dstShort => 8#4
    | .range => 9#4
    | .overlap => 10#4) ∧
  ∀ s : State,
    s.statusWord.getLsbD 0 = s.running.isSome ∧ s.statusWord.getLsbD 1 = s.done ∧
    s.statusWord.getLsbD 2 = s.authFail ∧ s.statusWord.getLsbD 3 = s.fatal ∧
    s.statusWord.extractLsb' 4 4 = 0 ∧ s.statusWord.extractLsb' 8 4 = s.err.code ∧
    s.statusWord.extractLsb' 12 4 = 0 ∧ s.statusWord.getLsbD 16 = s.ev ∧
    s.statusWord.getLsbD 17 = s.av ∧ s.statusWord.extractLsb' 18 6 = 0 ∧
    (s.statusWord.extractLsb' 24 6).toNat = s.eng.off.val ∧ s.statusWord.extractLsb' 30 2 = 0

/-- Rules R41, R43, R44: the fields of CTRL, ENGCFG and AEADCFG, and their reserved bits, which read 0. -/
def Obligations.ConfigurationFields : Prop :=
  ∀ s : State,
    s.ctrlWord.getLsbD 0 = s.ie ∧ s.ctrlWord.extractLsb' 1 31 = 0 ∧
    (s.ev = false → s.engcfgWord = 0) ∧
    (s.ev = true → s.engcfgWord.extractLsb' 0 8 = BitVec.ofNat 8 s.eng.r ∧
      s.engcfgWord.extractLsb' 8 5 = BitVec.ofNat 5 s.eng.nv ∧ s.engcfgWord.extractLsb' 13 19 = 0) ∧
    s.aeadcfgWord.extractLsb' 0 5 = (if s.av = true then BitVec.ofNat 5 s.ts else 0) ∧
    s.aeadcfgWord.extractLsb' 5 3 = 0 ∧ s.aeadcfgWord.extractLsb' 8 5 = 12 ∧
    s.aeadcfgWord.extractLsb' 13 19 = 0

/-- Rules R39, R80, R84, R85, R270 to R273: in the register window, an access of another size than 4, at an
offset with no register, or a write of a write-only or read-write register without all four strobes, is an
ERROR; outside it, an access outside the MBUF window or not naturally aligned there is one. -/
def Obligations.BusErrors : Prop :=
  (∀ (s : State) (off : Nat) (size : Size) (d : Word) (strobe : BitVec 4), off < 0x1000 →
    (size ≠ .word ∨ unmappedOffset off →
      s.hostRead off size = none ∧ s.hostWrite off size d strobe = none) ∧
    (strobe ≠ 0b1111#4 → readWriteOffset off ∨ off = 0x004 ∨ off = 0x00C ∨ (0x020 ≤ off ∧ off < 0x040) →
      s.hostWrite off size d strobe = none)) ∧
  ∀ (s : State) (off : Nat) (size : Size) (d : Word) (strobe : BitVec 4), 0x1000 ≤ off →
    (off < s.build.mbufBase ∨ s.build.mbufBase + s.build.mbufBytes ≤ off
      ∨ (off - s.build.mbufBase) % size.bytes ≠ 0) →
    s.hostRead off size = none ∧ s.hostWrite off size d strobe = none

/-- Rules R39, R45, R92 (1), R271: a full write of a NONCE, pair or SIN register stores the word, so that a read
gives it, and changes no other register; a full write of KEYi stores the word in KEY[i] (which always reads 0) and
changes nothing else. The equation for t leaves open only registers that the reads show. -/
def Obligations.ReadWriteRegistersReadBack : Prop :=
  (∀ (s : State) (off : Nat) (d : Word), readWriteOffset off →
    ∃ t, s.hostWrite off .word d 0b1111#4 = some t ∧ t.hostRead off .word = some d ∧
      (∀ off' size, off' < 0x1000 → off' ≠ off → t.hostRead off' size = s.hostRead off' size) ∧
      t = { s with
        nonce := t.nonce, ctr := t.ctr, src := t.src, dst := t.dst, len := t.len, dlen := t.dlen
        aad := t.aad, aadlen := t.aadlen, sin := t.sin }) ∧
  ∀ (s : State) (d : Word) (j : Nat) (h : j < 8),
    s.hostWrite (0x020 + 4 * j) .word d 0b1111#4 = some { s with key := s.key.set j d }

/-- Rules R40, R90, R271, R347: a write anywhere in the register window changes no context, no result register, no
error record and no byte of MBUF; it writes KEY only at KEY's offsets, the other argument registers only at
theirs, IE only at CTRL, DONE only at STATUS, and captures a command only at CMD. A write of a read-only register,
and a STATUS write with lane 0 off or bit 1 clear, is answered OKAY and changes nothing, whatever its strobe. -/
def Obligations.RegisterWritesKeepTheContexts : Prop :=
  (∀ (s t : State) (off : Nat) (size : Size) (d : Word) (strobe : BitVec 4), off < 0x1000 →
    s.hostWrite off size d strobe = some t →
    (t.eng = s.eng ∧ t.ev = s.ev ∧ t.ak = s.ak ∧ t.ts = s.ts ∧ t.av = s.av ∧ t.blk = s.blk ∧
      t.subkey = s.subkey ∧ t.tag = s.tag ∧ t.authFail = s.authFail ∧ t.fatal = s.fatal ∧
      t.err = s.err ∧ t.errcmd = s.errcmd ∧ t.mbuf = s.mbuf ∧ t.build = s.build) ∧
    (t.host = s.host ∧ t.held = s.held ∧ t.resp = s.resp ∧ t.powerOns = s.powerOns ∧ t.aborts = s.aborts) ∧
    (¬ keyOffset off → t.key = s.key) ∧
    (¬ readWriteOffset off → t.nonce = s.nonce ∧ t.ctr = s.ctr ∧ t.src = s.src ∧ t.dst = s.dst ∧
      t.len = s.len ∧ t.dlen = s.dlen ∧ t.aad = s.aad ∧ t.aadlen = s.aadlen ∧ t.sin = s.sin) ∧
    (off ≠ 0x00C → t.ie = s.ie) ∧ (off ≠ 0x008 → t.done = s.done) ∧ (off ≠ 0x004 → t.running = s.running)) ∧
  (∀ (s : State) (off : Nat) (d : Word) (strobe : BitVec 4), readOnlyOffset off →
    s.hostWrite off .word d strobe = some s) ∧
  ∀ (s : State) (d : Word) (strobe : BitVec 4), strobe.getLsbD 0 = false ∨ d.getLsbD 1 = false →
    s.hostWrite 0x008 .word d strobe = some s

/-- Rule R273: an aligned MBUF write inside the window writes exactly the bytes whose strobe is 1, and no
register. -/
def Obligations.MbufWriteWritesItsLanes : Prop :=
  ∀ (s : State) (a : Nat) (size : Size) (d : Word) (strobe : BitVec 4),
    0x1000 ≤ s.build.mbufBase → a % size.bytes = 0 → a + size.bytes ≤ s.build.mbufBytes →
    ∃ t, s.hostWrite (s.build.mbufBase + a) size d strobe = some t ∧
      (∀ k, k < size.bytes → t.mbufByte (a + k) =
        if strobe.getLsbD k = true then (d >>> (8 * k)).setWidth 8 else s.mbufByte (a + k)) ∧
      (∀ x, x < a ∨ a + size.bytes ≤ x → t.mbufByte x = s.mbufByte x) ∧
      t = { s with mbuf := t.mbuf }

/-- Rules R83, R272: an aligned MBUF read inside the window gives its bytes, the lowest offset in the
lowest bits, zeros above. -/
def Obligations.MbufReadGivesItsBytes : Prop :=
  ∀ (s : State) (a : Nat) (size : Size),
    0x1000 ≤ s.build.mbufBase → a % size.bytes = 0 → a + size.bytes ≤ s.build.mbufBytes →
    ∃ d, s.hostRead (s.build.mbufBase + a) size = some d ∧
      ∀ k, k < 4 → (d >>> (8 * k)).setWidth 8 = if k < size.bytes then s.mbufByte (a + k) else 0#8

/-- Rules R81, R90, R91, R300 (a): performing a transaction. A read changes nothing but the response on the bus,
which is OKAY with the data `hostRead` gives, or ERROR where it gives none; a write that `hostWrite` allows leaves
the state it gives with the response OKAY; a transaction answered by ERROR has no effect. An idle block performs the
next transaction of the host in one step, and first one that it holds; with nothing held, and nothing to come from
the host or a wait, it stays as it is and starts no command (R274, R317). The response and the queue of events are the
model's choice (log entry 5), and so is that a held transaction comes before any event (log entry 16). -/
def Obligations.ReadsAndErrorsHaveNoEffect : Prop :=
  (∀ (s : State) (off : Nat) (size : Size), ∃ r, s.perform (.read off size) = { s with resp := some r }) ∧
  (∀ (s : State) (t : HostTxn), s.isError t = true → s.perform t = { s with resp := some .error }) ∧
  (∀ (s : State) (off : Nat) (size : Size) (d : Word), s.hostRead off size = some d →
    s.perform (.read off size) = { s with resp := some (.readOkay d) }) ∧
  (∀ (s t : State) (off : Nat) (size : Size) (d : Word) (strobe : BitVec 4),
    s.hostWrite off size d strobe = some t →
    s.perform (.write off size d strobe) = { t with resp := some .writeOkay }) ∧
  (∀ (s : State) (off : Nat) (size : Size) (d : Word) (strobe : BitVec 4),
    (s.isError (.read off size) = true ↔ s.hostRead off size = none) ∧
    (s.isError (.write off size d strobe) = true ↔ s.hostWrite off size d strobe = none)) ∧
  ∀ (s : State) (t : HostTxn), s.running = none →
    (∀ rest, s.held = none → s.host = .txn t :: rest →
      step s = .next (State.perform { s with host := rest, resp := none } t)) ∧
    (s.held = some t → step s = .next (State.perform { s with held := none, resp := none } t)) ∧
    (s.held = none → s.host = [] → step s = .next { s with resp := none }) ∧
    (∀ rest, s.held = none → s.host = .wait :: rest → step s = .next { s with host := rest, resp := none })

/-- Rule R91: a write of CMD captures the word and makes BUSY 1; while a command runs, a read of STATUS is
answered at once with BUSY = 1 and every other field as before the command, a read of ID is answered at once, so
is an ERROR, any other transaction is held without effect, and one that is held is performed as the step after
the command, whether nothing is to come from the host, it waits, or it has a second transaction. For the ERROR of a
partial strobe the rules differ (R91 and R300 (a) at once, R271 after the hold): the build says which (log entry 8).
The queue of events is the model's choice (log entry 5), and so is that a held transaction whose command has ended
is performed first also when a reset or power-on is the next event (log entry 16). -/
def Obligations.BusyBlockHoldsTransactions : Prop :=
  (∀ (s : State) (d : Word) (rest : List HostEvent), s.fatal = false → s.running = none → s.held = none →
    s.host = .txn (.write 0x004 .word d 0b1111#4) :: rest →
    step s = .next { s with host := rest, running := some d, resp := some .writeOkay }) ∧
  ∀ (s : State) (w : Word) (rest : List HostEvent), s.running = some w →
    (s.held = none → s.host = .txn (.read 0x008 .word) :: rest →
      step s = .next { s with host := rest, resp := some (.readOkay s.statusWord) } ∧
      s.statusWord = State.statusWord { s with running := none } ||| 1) ∧
    (s.held = none → s.host = .txn (.read 0x000 .word) :: rest →
      step s = .next { s with host := rest, resp := some (.readOkay 0x43433230) }) ∧
    (∀ t, s.held = none → s.host = .txn t :: rest → s.isError t = true →
      ¬ partialStrobe t ∨ s.build.strobe = .atOnce →
      step s = .next { s with host := rest, resp := some .error }) ∧
    (∀ t, s.held = none → s.host = .txn t :: rest →
      s.isError t = false ∨ (partialStrobe t ∧ s.build.strobe = .afterCommand) →
      t ≠ .read 0x000 .word → t ≠ .read 0x008 .word →
      step s = .next { s with host := rest, held := some t, resp := none }) ∧
    (∀ t later, s.fatal = false → s.held = some t →
      (s.host = [] ∧ later = []) ∨ s.host = .wait :: later
        ∨ (∃ v, s.host = .txn v :: rest ∧ later = .txn v :: rest) →
      ∃ u, step s = .next u ∧ u.running = none ∧ u.held = some t ∧ u.host = later ∧
        step u = .next (State.perform { u with held := none, resp := none } t) ∧
        (State.perform { u with held := none, resp := none } t).resp.isSome = true)

/-- Rule R310: no register read depends on KEY, AK, KS or the key words of ST. -/
def Obligations.SecretsCannotBeReadFromRegisters : Prop :=
  ∀ (s t : State) (off : Nat) (size : Size), s.sameButSecrets t → off < 0x1000 →
    s.hostRead off size = t.hostRead off size

/-! ### Reset (70_reset_and_hazards.md) -/

/-- Rule R340, V70: the registers right after reset, read by the host. The values are the spec's. -/
def Obligations.RegistersAfterReset : Prop :=
  ∀ off, off < 0x1000 → State.reset.hostRead off .word =
    if unmappedOffset off then none
    else if off = 0x000 then some 0x43433230
    else if off = 0x018 then some 0x00000C00
    else some 0

/-- Rules R306, R340: a reset while no command runs puts every register at its reset value, clears the
fatal error, and leaves every byte of MBUF. The events are the model's choice (log entries 5, 16). -/
def Obligations.ResetWhileIdle : Prop :=
  ∀ (s : State) (rest : List HostEvent), s.running = none → s.held = none → s.host = .reset :: rest →
    ∃ t, step s = .next t ∧ (∀ a, t.mbufByte a = s.mbufByte a) ∧ t.mbuf = s.mbuf ∧
      t = { State.reset with
        build := s.build, mbuf := s.mbuf, host := rest, powerOns := s.powerOns, aborts := s.aborts }

/-- Rules R317, R342: power-on is a reset after which every byte of MBUF is the next draw of MBUF_INIT (log entry 2).
The events are the model's choice (log entries 5, 16). -/
def Obligations.PowerOnWhileIdle : Prop :=
  ∀ (s : State) (rest : List HostEvent), s.running = none → s.held = none → s.host = .powerOn :: rest →
    ∃ t, step s = .next t ∧ (∀ a, t.mbufByte a = Config.mbufInit (s.powerOns + 1) a) ∧
      t = { State.reset with
        build := s.build, host := rest, powerOns := s.powerOns + 1, aborts := s.aborts }

/-- Rules R341, R342: a reset while a command runs aborts it: the registers take their reset values, a held
transaction is dropped without a response, every byte of the region the command writes, whether or not it would
have passed its checks, takes the free value, and no byte outside it changes; for an illegal word it is empty. Loss
of power while a command
runs does the same to the registers, and every byte of MBUF is then the next draw of MBUF_INIT. The draws and the
events are the model's choice (log entries 2, 3, 5, 16). -/
def Obligations.ResetDuringACommand : Prop :=
  ∀ (s : State) (w : Word) (rest : List HostEvent), s.running = some w →
    (∀ i, decode w = .ok i → s.host = .reset :: rest →
      ∃ t, step s = .next t ∧
        (∀ a, a < s.dst.val ∨ s.dst.val + s.outLen i ≤ a → t.mbufByte a = s.mbufByte a) ∧
        (∀ a, s.dst.val ≤ a → a < s.dst.val + s.outLen i → a < s.build.mbufBytes →
          t.mbufByte a = Config.abortByte s.aborts a) ∧
        t = { State.reset with
          build := s.build, mbuf := t.mbuf, host := rest, powerOns := s.powerOns, aborts := t.aborts }) ∧
    (∀ e, decode w = .error e → s.host = .reset :: rest →
      ∃ t, step s = .next t ∧ (∀ a, t.mbufByte a = s.mbufByte a) ∧
        t = { State.reset with
          build := s.build, mbuf := t.mbuf, host := rest, powerOns := s.powerOns, aborts := t.aborts }) ∧
    (s.host = .powerOn :: rest →
      ∃ t, step s = .next t ∧ (∀ a, t.mbufByte a = Config.mbufInit (s.powerOns + 1) a) ∧
        t = { State.reset with
          build := s.build, mbuf := t.mbuf, host := rest, powerOns := s.powerOns + 1, aborts := t.aborts })

/-! ### The invariant -/

/-- The invariant holds after reset. -/
def Obligations.InvariantAfterReset : Prop := State.reset.Inv

/-- Every step keeps the invariant: the build stays legal, memory stays canonical and inside MBUF, a
configured engine has legal rounds, a legal variant and the four constants in ST, a configured AEAD context
has a legal tag size, and the error record agrees with FATAL. -/
def Obligations.EveryStepKeepsTheInvariant : Prop :=
  ∀ s t : State, s.Inv → step s = .next t → t.Inv
end

