-- ==== Sys2Proof/Laws/Memory.lean ====
section
/-! SUPPORT. The laws of the message buffer: the canonical form is kept by every write, a read after a
write to the same offset gives the byte written, and every other offset reads as before. -/

namespace Sys2Proof.Machine

/-! ### One byte -/

theorem Memory.get_set_same (m : List Host.Cell) (a : Nat) (b : Byte) :
    Memory.get (Memory.set m a b) a = some b := by
  induction m with
  | nil => simp [Memory.set, Memory.get]
  | cons c m ih =>
    obtain ⟨k, v⟩ := c
    simp only [Memory.set]
    split
    · simp [Memory.get]
    · split
      · simp [Memory.get]
      · simp [Memory.get, *]

theorem Memory.get_set_other (m : List Host.Cell) {a x : Nat} (b : Byte) (h : x ≠ a) :
    Memory.get (Memory.set m a b) x = Memory.get m x := by
  induction m with
  | nil => simp [Memory.set, Memory.get, h]
  | cons c m ih =>
    obtain ⟨k, v⟩ := c
    simp only [Memory.set]
    split
    · simp [Memory.get, h]
    · split
      · subst_vars; simp [Memory.get, h]
      · simp [Memory.get, ih]

theorem Memory.mem_set {m : List Host.Cell} {a : Nat} {b : Byte} {c : Host.Cell}
    (h : c ∈ Memory.set m a b) : c = (a, b) ∨ c ∈ m := by
  induction m with
  | nil => simpa [Memory.set] using h
  | cons d m ih =>
    obtain ⟨k, v⟩ := d
    simp only [Memory.set] at h
    split at h
    · simpa using h
    · split at h
      · rcases List.mem_cons.1 h with h | h
        · exact .inl h
        · exact .inr (List.mem_cons_of_mem _ h)
      · rcases List.mem_cons.1 h with h | h
        · exact .inr (h ▸ List.mem_cons_self ..)
        · exact (ih h).imp_right (List.mem_cons_of_mem _)

theorem Memory.set_wf {m : List Host.Cell} (h : Memory.wf m) (a : Nat) (b : Byte) :
    Memory.wf (Memory.set m a b) := by
  induction m with
  | nil => simp [Memory.set, Memory.wf]
  | cons c m ih =>
    obtain ⟨k, v⟩ := c
    obtain ⟨hk, hm⟩ := List.pairwise_cons.1 h
    simp only [Memory.set]
    split
    · rename_i hak
      refine List.pairwise_cons.2 ⟨?_, h⟩
      intro d hd
      rcases List.mem_cons.1 hd with rfl | hd
      · exact hak
      · exact lt_trans hak (hk d hd)
    · split
      · rename_i hak; subst hak
        exact List.pairwise_cons.2 ⟨hk, hm⟩
      · rename_i h1 h2
        refine List.pairwise_cons.2 ⟨?_, ih hm⟩
        intro d hd
        rcases Memory.mem_set hd with rfl | hd
        · exact lt_of_le_of_ne (not_lt.1 h1) (Ne.symm h2)
        · exact hk d hd

/-! ### A byte string -/

theorem Memory.write_wf {m : List Host.Cell} (h : Memory.wf m) (a : Nat) (B : ByteString) :
    Memory.wf (Memory.write m a B) := by
  induction B generalizing m a with
  | nil => exact h
  | cons b B ih => exact ih (Memory.set_wf h a b) (a + 1)

theorem Memory.mem_write {m : List Host.Cell} {a : Nat} {B : ByteString} {c : Host.Cell}
    (h : c ∈ Memory.write m a B) : c ∈ m ∨ (a ≤ c.1 ∧ c.1 < a + B.length) := by
  induction B generalizing m a with
  | nil => exact .inl h
  | cons b B ih =>
    rcases ih h with h | h
    · rcases Memory.mem_set h with rfl | h
      · exact .inr ⟨le_refl _, by simp⟩
      · exact .inl h
    · exact .inr ⟨by omega, by simp only [List.length_cons]; omega⟩

theorem Memory.get_write_outside (m : List Host.Cell) {a x : Nat} (B : ByteString)
    (h : x < a ∨ a + B.length ≤ x) : Memory.get (Memory.write m a B) x = Memory.get m x := by
  induction B generalizing m a with
  | nil => rfl
  | cons b B ih =>
    simp only [List.length_cons] at h
    rw [Memory.write, ih _ (by omega), Memory.get_set_other _ _ (by omega)]

theorem Memory.get_write_inside (m : List Host.Cell) (a i : Nat) (B : ByteString) (h : i < B.length) :
    Memory.get (Memory.write m a B) (a + i) = some B[i] := by
  induction B generalizing m a i with
  | nil => simp at h
  | cons b B ih =>
    rw [Memory.write]
    cases i with
    | zero => rw [Memory.get_write_outside _ _ (by omega)]; simpa using Memory.get_set_same m a b
    | succ i =>
      have := ih (Memory.set m a b) (a + 1) i (by simpa using h)
      rw [show a + (i + 1) = a + 1 + i by omega, this]; simp

/-- Two writes at one place: the second alone remains. -/
theorem Memory.set_set (m : List Host.Cell) (a : Nat) (b c : Byte) :
    Memory.set (Memory.set m a b) a c = Memory.set m a c := by
  induction m with
  | nil => simp [Memory.set]
  | cons d m ih =>
    obtain ⟨k, v⟩ := d
    simp only [Memory.set]
    split
    · simp [Memory.set]
    · split
      · simp [Memory.set]
      · rename_i h1 h2; simp [Memory.set, h1, h2, ih]

/-! ### The machine's accesses -/

/-- After MemWrite a byte inside the region reads as written. `t` is any state that holds the memory
written, in the same power-on. -/
theorem State.mbufByte_memWrite_inside {s t : State} {a : Nat} {B : ByteString}
    (hm : t.mbuf = s.memWrite a B) (i : Nat) (h : i < B.length) : t.mbufByte (a + i) = B[i] := by
  simp [State.mbufByte, hm, State.memWrite, Memory.get_write_inside _ _ _ _ h]

/-- After MemWrite a byte outside the region reads as before. -/
theorem State.mbufByte_memWrite_outside {s t : State} {a x : Nat} {B : ByteString}
    (hm : t.mbuf = s.memWrite a B) (hp : t.powerOns = s.powerOns)
    (h : x < a ∨ a + B.length ≤ x) : t.mbufByte x = s.mbufByte x := by
  simp [State.mbufByte, hm, hp, State.memWrite, Memory.get_write_outside _ _ h]

@[simp] theorem State.length_memRead (s : State) (a n : Nat) : (s.memRead a n).length = n := by
  simp [State.memRead]

@[simp] theorem State.getElem_memRead (s : State) (a n i : Nat) (h : i < (s.memRead a n).length) :
    (s.memRead a n)[i] = s.mbufByte (a + i) := by
  simp [State.memRead]

/-- Two states whose bytes agree on a region read the same string from it. -/
theorem State.memRead_congr {s t : State} {a n : Nat}
    (h : ∀ i < n, s.mbufByte (a + i) = t.mbufByte (a + i)) : s.memRead a n = t.memRead a n := by
  refine List.map_congr_left fun i hi => h i (by simpa using hi)

/-- Reading back what MemWrite wrote. -/
theorem State.memRead_memWrite {s t : State} {a : Nat} {B : ByteString} (hm : t.mbuf = s.memWrite a B) :
    t.memRead a B.length = B := by
  refine List.ext_getElem (by simp) fun i h1 h2 => ?_
  rw [State.getElem_memRead, State.mbufByte_memWrite_inside hm i h2]

/-- MemWrite inside MBUF keeps the canonical form and lists only offsets of MBUF. -/
theorem State.memWrite_ok {s : State} {a n : Nat} {B : ByteString} (hw : Memory.wf s.mbuf)
    (hb : ∀ c ∈ s.mbuf, c.1 < n) (h : B.length = 0 ∨ a + B.length ≤ n) :
    Memory.wf (s.memWrite a B) ∧ ∀ c ∈ s.memWrite a B, c.1 < n := by
  refine ⟨Memory.write_wf hw a B, fun c hc => ?_⟩
  rcases Memory.mem_write hc with hc | hc
  · exact hb c hc
  · omega

/-! ### A command cut short by reset -/

theorem State.length_abortBytes (s : State) (a n : Nat) :
    (s.abortBytes a n).length = min n (s.build.mbufBytes - a) := by
  simp [State.abortBytes]

/-- What MBUF reads after a command is cut short: the unspecified bytes inside its region, as far as MBUF goes,
and the bytes before elsewhere (R341). -/
theorem State.mbufByte_abort (s : State) (a n x : Nat) :
    (s.abort a n).mbufByte x =
      if a ≤ x ∧ x < a + n ∧ x < s.build.mbufBytes then Config.abortByte s.aborts x else s.mbufByte x := by
  have hm : (s.abort a n).mbuf = s.memWrite a (s.abortBytes a n) := rfl
  have hl := s.length_abortBytes a n
  split
  · obtain ⟨i, rfl⟩ := Nat.exists_eq_add_of_le (by omega : a ≤ x)
    rw [State.mbufByte_memWrite_inside hm i (by omega)]
    simp [State.abortBytes]
  · exact State.mbufByte_memWrite_outside hm rfl (by omega)

/-- A command cut short leaves MBUF in canonical form and inside its bounds. -/
theorem State.abort_ok {s : State} (a n : Nat) (hw : Memory.wf s.mbuf)
    (hb : ∀ c ∈ s.mbuf, c.1 < s.build.mbufBytes) :
    Memory.wf (s.abort a n).mbuf ∧ ∀ c ∈ (s.abort a n).mbuf, c.1 < s.build.mbufBytes :=
  State.memWrite_ok hw hb (by rw [State.length_abortBytes]; omega)

end Sys2Proof.Machine
end

