-- ==== Sys2Proof/Laws/Bus.lean ====
section
/-! SUPPORT. What the register map and the host's transactions can do (10_state.md rule R39, 20_memory.md
rules R81 to R85). -/

namespace Sys2Proof.Machine

/-! ### The register map -/

theorem mem_allRegs (r : Reg) : r ∈ allRegs := by
  cases r with
  | pair p hi => cases p <;> cases hi <;> simp [allRegs]
  | _ => simp [allRegs]

/-- No two registers share an offset. -/
theorem nodup_offsets : (allRegs.map Reg.offset).Nodup := by decide +kernel

theorem Reg.offset_injective {r q : Reg} (h : r.offset = q.offset) : r = q :=
  List.inj_on_of_nodup_map nodup_offsets (mem_allRegs r) (mem_allRegs q) h

/-- The map names a register at its own offset and at no other. -/
theorem regAt_eq_some {off : Nat} {r : Reg} : regAt off = some r ↔ r.offset = off := by
  constructor
  · intro h; simpa using List.find?_some h
  · intro h
    cases hf : regAt off with
    | none => exact absurd h (by simpa using List.find?_eq_none.1 hf r (mem_allRegs r))
    | some q =>
      have hq : q.offset = off := by simpa using List.find?_some hf
      rw [Reg.offset_injective (h.trans hq.symm)]

/-- An offset has no register exactly when no register has it. -/
theorem regAt_eq_none {off : Nat} : regAt off = none ↔ ∀ r : Reg, r.offset ≠ off := by
  constructor
  · intro h r hr
    rw [regAt_eq_some.2 hr] at h; cases h
  · intro h
    cases hf : regAt off with
    | none => rfl
    | some q => exact absurd (regAt_eq_some.1 hf) (h q)

/-! ### Transactions -/

/-- A register read at a register's offset. -/
theorem State.hostRead_register (s : State) (r : Reg) (h : r.offset < 0x1000) :
    s.hostRead r.offset .word = some (s.readReg r) := by
  simp [State.hostRead, h, regAccess, regAt_eq_some.2 rfl]

/-- A full-strobe write at a register's offset that acts: all but a STATUS write, which looks at lane 0
too. -/
theorem State.hostWrite_register (s : State) (r : Reg) (d : Word) (h : r.offset < 0x1000) :
    s.hostWrite r.offset .word d 0b1111#4 = some (s.writeReg d r) := by
  have hs : strobeOk r 0b1111#4 = true := by unfold strobeOk; cases r.access <;> decide
  simp [State.hostWrite, h, regAccess, regAt_eq_some.2 rfl, hs]

/-- Every register is in the window. -/
theorem Reg.offset_lt (r : Reg) : r.offset < 0x1000 := by
  cases r with
  | pair p hi => cases p <;> cases hi <;> decide
  | _ => simp only [Reg.offset]; omega

/-- What a write in the register window can do: nothing, or what the register at the offset does with the
data. -/
theorem State.hostWrite_cases {s t : State} {off : Nat} {size : Size} {d : Word} {strobe : BitVec 4}
    (h : off < 0x1000) (hw : s.hostWrite off size d strobe = some t) :
    t = s ∨ ∃ r : Reg, r.offset = off ∧ t = s.writeReg d r := by
  simp only [State.hostWrite, h, if_true] at hw
  split at hw
  · cases hw
  · rename_i r hr
    have ho : r.offset = off := by
      unfold regAccess at hr
      split at hr
      · exact regAt_eq_some.1 hr
      · cases hr
    split at hw
    · rw [Option.some.injEq] at hw
      split at hw
      · exact .inl hw.symm
      · exact .inr ⟨r, ho, hw.symm⟩
    · cases hw

/-- Whether a transaction is an ERROR depends on the build alone (R84, R85). -/
theorem State.isError_congr {s t : State} (h : s.build = t.build) (x : HostTxn) : s.isError x = t.isError x := by
  cases x with
  | read off size =>
    simp only [State.isError, State.hostRead, State.mbufAccess, h]
    split
    · simp
    · split <;> rfl
  | write off size d strobe =>
    simp only [State.isError, State.hostWrite, State.mbufAccess, h]
    split
    · split
      · rfl
      · split <;> rfl
    · split <;> rfl

/-- The registers that ask for four strobes are those at the offsets the claims name. -/
theorem Reg.asks_full_strobe (r : Reg) :
    (r.access = .wo ∨ r.access = .rw) ↔ fullStrobeOffset r.offset := by
  cases r with
  | pair p hi => cases p <;> cases hi <;> decide
  | key i | nonce i | sin i | state i | blk i | subkey i | tag i => revert i; decide
  | _ => decide

/-- Every offset the claims name for those registers is mapped. -/
theorem mapped_of_fullStrobe {off : Nat} (h : fullStrobeOffset off) : (regAt off).isSome = true := by
  have all : ∀ o, o < 0x100 → fullStrobeOffset o → (regAt o).isSome = true := by decide +kernel
  refine all off ?_ h
  unfold fullStrobeOffset keyOffset readWriteOffset at h
  omega

/-- The bus's test for a partial strobe is the one the claims name. -/
theorem isPartialWrite_iff (x : HostTxn) : isPartialWrite x = true ↔ partialStrobe x := by
  cases x with
  | read off size => simp [isPartialWrite, partialStrobe]
  | write off size d strobe =>
    have hk : ∀ r : Reg, strobeOk r strobe = false ↔ fullStrobeOffset r.offset ∧ strobe ≠ 0b1111#4 := by
      intro r
      rw [← r.asks_full_strobe]
      unfold strobeOk
      cases r.access <;> simp
    simp only [isPartialWrite, partialStrobe, regAccess]
    by_cases hz : size = .word
    · cases hr : regAt off with
      | none =>
        have hn := regAt_eq_none.1 hr
        simp only [hz, if_true, Bool.false_eq_true, true_and, false_iff]
        rintro ⟨hf, -⟩
        have := mapped_of_fullStrobe hf
        rw [hr] at this; cases this
      | some r =>
        have ho := regAt_eq_some.1 hr
        subst ho
        simp [hz, hk r]
    · simp [hz]

/-- When an ERROR is given while a command runs, in the words of the claims. -/
theorem State.errorAtOnce_iff (s : State) (x : HostTxn) :
    s.errorAtOnce x = true ↔ s.isError x = true ∧ (¬ partialStrobe x ∨ s.build.strobe = .atOnce) := by
  rw [← isPartialWrite_iff]
  unfold State.errorAtOnce
  cases s.build.strobe <;> simp

/-- What the lanes of an MBUF write do: MBUF alone changes, a lane inside that the strobe enables holds its
byte of the data, any other offset reads as before. -/
theorem State.writeLanes_spec (a : Nat) (d : Word) (strobe : BitVec 4) (n : Nat) (s : State) (k : Nat) :
    (∃ m, s.writeLanes a d strobe n k = { s with mbuf := m }) ∧
    ∀ x, (s.writeLanes a d strobe n k).mbufByte x =
      if a + k ≤ x ∧ x < a + k + n ∧ strobe.getLsbD (x - a) = true then wordByte d (x - a)
      else s.mbufByte x := by
  induction n generalizing s k with
  | zero =>
    refine ⟨⟨s.mbuf, rfl⟩, fun x => ?_⟩
    rw [if_neg (by omega), State.writeLanes]
  | succ n ih =>
    rw [State.writeLanes]
    split
    · rename_i hk
      obtain ⟨⟨m, hm⟩, hb⟩ := ih { s with mbuf := Memory.set s.mbuf (a + k) (wordByte d k) } (k + 1)
      refine ⟨⟨m, hm⟩, fun x => ?_⟩
      rw [hb x]
      by_cases hx : x = a + k
      · subst hx
        rw [if_neg (by omega), if_pos ⟨by omega, by omega, by rwa [Nat.add_sub_cancel_left]⟩]
        simp [State.mbufByte, Memory.get_set_same]
      · by_cases hc : a + (k + 1) ≤ x ∧ x < a + (k + 1) + n ∧ strobe.getLsbD (x - a) = true
        · rw [if_pos hc, if_pos ⟨by omega, by omega, hc.2.2⟩]
        · rw [if_neg hc, if_neg (fun h => hc ⟨by omega, by omega, h.2.2⟩)]
          simp [State.mbufByte, Memory.get_set_other _ _ hx]
    · rename_i hk
      obtain ⟨hm, hb⟩ := ih s (k + 1)
      refine ⟨hm, fun x => ?_⟩
      rw [hb x]
      by_cases hx : x = a + k
      · subst hx
        rw [if_neg (by omega), if_neg (fun h => hk (by have := h.2.2; rwa [Nat.add_sub_cancel_left] at this))]
      · by_cases hc : a + (k + 1) ≤ x ∧ x < a + (k + 1) + n ∧ strobe.getLsbD (x - a) = true
        · rw [if_pos hc, if_pos ⟨by omega, by omega, hc.2.2⟩]
        · rw [if_neg hc, if_neg (fun h => hc ⟨by omega, by omega, h.2.2⟩)]

end Sys2Proof.Machine
end

