-- ==== Sys2Proof/Laws/Bytes.lean ====
section
/-! SUPPORT. The laws of byte packing and of XOR on byte strings. -/

namespace Sys2Proof.Machine

/-! ### Words and bytes -/

theorem getElem_bytesOf {n : Nat} (ws : Vector Word n) (k : Nat) (h : k < 4 * n) :
    (bytesOf ws)[k] = wordByte ws[k / 4] (k % 4) := by
  simp [bytesOf]

/-- The four bytes of a word make the word again. -/
theorem append_wordBytes (w : Word) :
    wordByte w 3 ++ wordByte w 2 ++ wordByte w 1 ++ wordByte w 0 = w := by
  ext i hi
  simp only [wordByte, BitVec.getElem_append, BitVec.getElem_setWidth, BitVec.getLsbD_ushiftRight]
  split
  · simp [BitVec.getLsbD_eq_getElem hi]
  · split
    · rw [show 8 * 1 + (i - 8) = i by omega]; simp [BitVec.getLsbD_eq_getElem hi]
    · split
      · rw [show 8 * 2 + (i - 8 - 8) = i by omega]; simp [BitVec.getLsbD_eq_getElem hi]
      · rw [show 8 * 3 + (i - 8 - 8 - 8) = i by omega]; simp [BitVec.getLsbD_eq_getElem hi]

/-- `le32` of the byte view of words is the word there. -/
theorem le32_bytesOf {n : Nat} (ws : Vector Word n) (i : Nat) (h : i < n) :
    le32 (bytesOf ws).toList (4 * i) = ws[i] := by
  have key : ∀ k < 4, (bytesOf ws).toList.getD (4 * i + k) 0 = wordByte ws[i] k := by
    intro k hk
    rw [List.getD_eq_getElem _ _ (by simp; omega), Vector.getElem_toList, getElem_bytesOf]
    simp only [show (4 * i + k) / 4 = i by omega, show (4 * i + k) % 4 = k by omega]
  rw [le32, key 3 (by omega), key 2 (by omega), key 1 (by omega), ← Nat.add_zero (4 * i), key 0 (by omega)]
  exact append_wordBytes _

/-- Serialising words and reading them back gives the words. -/
theorem wordsOf_bytesOf {n : Nat} (ws : Vector Word n) : wordsOf n (bytesOf ws).toList = ws := by
  ext i hi
  simp [wordsOf, le32_bytesOf ws i hi]

/-! ### XOR -/

@[simp] theorem length_xorBytes (S K : ByteString) : (xorBytes S K).length = min S.length K.length := by
  simp [xorBytes]

/-- XOR with a keystream made of two parts is XOR part by part. -/
theorem xorBytes_append (S K L : ByteString) :
    xorBytes S (K ++ L) = xorBytes (S.take K.length) K ++ xorBytes (S.drop K.length) L := by
  induction K generalizing S with
  | nil => simp [xorBytes]
  | cons k K ih =>
    cases S with
    | nil => simp [xorBytes]
    | cons s S => simpa [xorBytes] using ih S

/-- XOR with a keystream made of two parts, the first part taking what it needs. -/
theorem xorBytes_append' (S K L : ByteString) :
    xorBytes S (K ++ L) = xorBytes S K ++ xorBytes (S.drop K.length) L := by
  rw [xorBytes_append]
  congr 1
  induction K generalizing S with
  | nil => simp [xorBytes]
  | cons k K ih =>
    cases S with
    | nil => simp [xorBytes]
    | cons s S => simpa [xorBytes] using ih S

/-- XOR uses no more keystream than there are bytes, and no more bytes than there is keystream. -/
theorem xorBytes_take (S K : ByteString) (n : Nat) :
    xorBytes (S.take n) K = xorBytes S (K.take n) := by
  induction n generalizing S K with
  | zero => simp [xorBytes]
  | succ n ih =>
    cases S with
    | nil => simp [xorBytes]
    | cons s S =>
      cases K with
      | nil => simp [xorBytes]
      | cons k K => simpa [xorBytes] using ih S K

/-- XOR is its own inverse. -/
theorem xorBytes_xorBytes (S K : ByteString) (h : S.length ≤ K.length) :
    xorBytes (xorBytes S K) K = S := by
  induction S generalizing K with
  | nil => simp [xorBytes]
  | cons s S ih =>
    cases K with
    | nil => simp at h
    | cons k K =>
      have := ih K (by simpa using h)
      simp only [xorBytes] at this
      simp [xorBytes, this]

end Sys2Proof.Machine
end

