-- ==== Sys2Proof/Laws/Checks.lean ====
section
/-! SUPPORT. When the shared checks on operands fail, in the words of rule R301 of 60_exceptions.md. -/

namespace Sys2Proof.Machine

/-- A region is out of range when it is not empty and ends beyond MBUF (R86). -/
theorem State.not_inrange (s : State) (a n : Nat) :
    ¬ s.inrange a n ↔ n ≠ 0 ∧ s.build.mbufBytes < a + n := by
  unfold State.inrange; omega

/-- CTR does not fit 32 bits exactly when its high half is not 0 (R47, R301). -/
theorem Pair.le_val (p : Pair) : 2 ^ 32 ≤ p.val ↔ p.hi ≠ 0 := by
  have hlo := p.lo.isLt
  have hhi : p.hi ≠ 0 ↔ p.hi.toNat ≠ 0 := by
    refine not_congr ⟨fun h => by simp [h], fun h => BitVec.eq_of_toNat_eq (by simpa using h)⟩
  rw [hhi, Pair.val]; omega

/-- The three checks on regions, as a chain of the causes of rule R301. -/
theorem State.bufferError_eq (s : State) (outLen aadLen : Nat) :
    s.bufferError outLen aadLen =
      if s.dlen.val < outLen then some .dstShort
      else if (s.len.val ≠ 0 ∧ s.build.mbufBytes < s.src.val + s.len.val)
          ∨ (s.dlen.val ≠ 0 ∧ s.build.mbufBytes < s.dst.val + s.dlen.val)
          ∨ (aadLen ≠ 0 ∧ s.build.mbufBytes < s.aad.val + aadLen) then some .range
      else if (s.dst.val ≠ s.src.val ∧ overlap s.dst.val outLen s.src.val s.len.val)
          ∨ overlap s.dst.val outLen s.aad.val aadLen then some .overlap
      else none := by
  unfold State.bufferError
  simp only [not_and_or, State.not_inrange]

/-- A command whose regions pass writes inside MBUF (R86). -/
theorem State.bufferError_none {s : State} {outLen aadLen : Nat}
    (h : s.bufferError outLen aadLen = none) : outLen = 0 ∨ s.dst.val + outLen ≤ s.build.mbufBytes := by
  rw [State.bufferError_eq] at h
  split at h
  · cases h
  · split at h
    · cases h
    · omega

end Sys2Proof.Machine
end

