-- ==== Sys2Proof/Laws/State.lean ====
section
/-! SUPPORT. What each shared update of the state leaves in each field: one lemma per field per update, so
that no proof unfolds a record update. -/

namespace Sys2Proof.Machine

variable (s : State)

/-! ### `State.complete` writes DONE and BUSY (R309) and nothing else -/

@[simp] theorem State.complete_build : s.complete.build = s.build := rfl
@[simp] theorem State.complete_eng : s.complete.eng = s.eng := rfl
@[simp] theorem State.complete_ev : s.complete.ev = s.ev := rfl
@[simp] theorem State.complete_ak : s.complete.ak = s.ak := rfl
@[simp] theorem State.complete_ts : s.complete.ts = s.ts := rfl
@[simp] theorem State.complete_av : s.complete.av = s.av := rfl
@[simp] theorem State.complete_key : s.complete.key = s.key := rfl
@[simp] theorem State.complete_nonce : s.complete.nonce = s.nonce := rfl
@[simp] theorem State.complete_ctr : s.complete.ctr = s.ctr := rfl
@[simp] theorem State.complete_src : s.complete.src = s.src := rfl
@[simp] theorem State.complete_dst : s.complete.dst = s.dst := rfl
@[simp] theorem State.complete_len : s.complete.len = s.len := rfl
@[simp] theorem State.complete_dlen : s.complete.dlen = s.dlen := rfl
@[simp] theorem State.complete_aad : s.complete.aad = s.aad := rfl
@[simp] theorem State.complete_aadlen : s.complete.aadlen = s.aadlen := rfl
@[simp] theorem State.complete_sin : s.complete.sin = s.sin := rfl
@[simp] theorem State.complete_blk : s.complete.blk = s.blk := rfl
@[simp] theorem State.complete_subkey : s.complete.subkey = s.subkey := rfl
@[simp] theorem State.complete_tag : s.complete.tag = s.tag := rfl
@[simp] theorem State.complete_done : s.complete.done = true := rfl
@[simp] theorem State.complete_authFail : s.complete.authFail = s.authFail := rfl
@[simp] theorem State.complete_fatal : s.complete.fatal = s.fatal := rfl
@[simp] theorem State.complete_err : s.complete.err = s.err := rfl
@[simp] theorem State.complete_errcmd : s.complete.errcmd = s.errcmd := rfl
@[simp] theorem State.complete_ie : s.complete.ie = s.ie := rfl
@[simp] theorem State.complete_mbuf : s.complete.mbuf = s.mbuf := rfl
@[simp] theorem State.complete_running : s.complete.running = none := rfl
@[simp] theorem State.complete_held : s.complete.held = s.held := rfl
@[simp] theorem State.complete_host : s.complete.host = s.host := rfl
@[simp] theorem State.complete_resp : s.complete.resp = s.resp := rfl
@[simp] theorem State.complete_powerOns : s.complete.powerOns = s.powerOns := rfl
@[simp] theorem State.complete_aborts : s.complete.aborts = s.aborts := rfl

/-! ### `State.raiseFatal` writes the error record (R303) and nothing else -/

@[simp] theorem State.raiseFatal_build (c : ErrCode) (w : Word) : (s.raiseFatal c w).build = s.build := rfl
@[simp] theorem State.raiseFatal_eng (c : ErrCode) (w : Word) : (s.raiseFatal c w).eng = s.eng := rfl
@[simp] theorem State.raiseFatal_ev (c : ErrCode) (w : Word) : (s.raiseFatal c w).ev = s.ev := rfl
@[simp] theorem State.raiseFatal_ak (c : ErrCode) (w : Word) : (s.raiseFatal c w).ak = s.ak := rfl
@[simp] theorem State.raiseFatal_ts (c : ErrCode) (w : Word) : (s.raiseFatal c w).ts = s.ts := rfl
@[simp] theorem State.raiseFatal_av (c : ErrCode) (w : Word) : (s.raiseFatal c w).av = s.av := rfl
@[simp] theorem State.raiseFatal_key (c : ErrCode) (w : Word) : (s.raiseFatal c w).key = s.key := rfl
@[simp] theorem State.raiseFatal_nonce (c : ErrCode) (w : Word) : (s.raiseFatal c w).nonce = s.nonce := rfl
@[simp] theorem State.raiseFatal_ctr (c : ErrCode) (w : Word) : (s.raiseFatal c w).ctr = s.ctr := rfl
@[simp] theorem State.raiseFatal_src (c : ErrCode) (w : Word) : (s.raiseFatal c w).src = s.src := rfl
@[simp] theorem State.raiseFatal_dst (c : ErrCode) (w : Word) : (s.raiseFatal c w).dst = s.dst := rfl
@[simp] theorem State.raiseFatal_len (c : ErrCode) (w : Word) : (s.raiseFatal c w).len = s.len := rfl
@[simp] theorem State.raiseFatal_dlen (c : ErrCode) (w : Word) : (s.raiseFatal c w).dlen = s.dlen := rfl
@[simp] theorem State.raiseFatal_aad (c : ErrCode) (w : Word) : (s.raiseFatal c w).aad = s.aad := rfl
@[simp] theorem State.raiseFatal_aadlen (c : ErrCode) (w : Word) : (s.raiseFatal c w).aadlen = s.aadlen := rfl
@[simp] theorem State.raiseFatal_sin (c : ErrCode) (w : Word) : (s.raiseFatal c w).sin = s.sin := rfl
@[simp] theorem State.raiseFatal_blk (c : ErrCode) (w : Word) : (s.raiseFatal c w).blk = s.blk := rfl
@[simp] theorem State.raiseFatal_subkey (c : ErrCode) (w : Word) : (s.raiseFatal c w).subkey = s.subkey := rfl
@[simp] theorem State.raiseFatal_tag (c : ErrCode) (w : Word) : (s.raiseFatal c w).tag = s.tag := rfl
@[simp] theorem State.raiseFatal_done (c : ErrCode) (w : Word) : (s.raiseFatal c w).done = s.done := rfl
@[simp] theorem State.raiseFatal_authFail (c : ErrCode) (w : Word) : (s.raiseFatal c w).authFail = s.authFail := rfl
@[simp] theorem State.raiseFatal_fatal (c : ErrCode) (w : Word) : (s.raiseFatal c w).fatal = true := rfl
@[simp] theorem State.raiseFatal_err (c : ErrCode) (w : Word) : (s.raiseFatal c w).err = c := rfl
@[simp] theorem State.raiseFatal_errcmd (c : ErrCode) (w : Word) : (s.raiseFatal c w).errcmd = w := rfl
@[simp] theorem State.raiseFatal_ie (c : ErrCode) (w : Word) : (s.raiseFatal c w).ie = s.ie := rfl
@[simp] theorem State.raiseFatal_mbuf (c : ErrCode) (w : Word) : (s.raiseFatal c w).mbuf = s.mbuf := rfl
@[simp] theorem State.raiseFatal_running (c : ErrCode) (w : Word) : (s.raiseFatal c w).running = s.running := rfl
@[simp] theorem State.raiseFatal_held (c : ErrCode) (w : Word) : (s.raiseFatal c w).held = s.held := rfl
@[simp] theorem State.raiseFatal_host (c : ErrCode) (w : Word) : (s.raiseFatal c w).host = s.host := rfl
@[simp] theorem State.raiseFatal_resp (c : ErrCode) (w : Word) : (s.raiseFatal c w).resp = s.resp := rfl
@[simp] theorem State.raiseFatal_powerOns (c : ErrCode) (w : Word) : (s.raiseFatal c w).powerOns = s.powerOns := rfl
@[simp] theorem State.raiseFatal_aborts (c : ErrCode) (w : Word) : (s.raiseFatal c w).aborts = s.aborts := rfl

/-! ### `State.raiseAuthFail` writes AUTH_FAIL (R304) and nothing else -/

@[simp] theorem State.raiseAuthFail_build : s.raiseAuthFail.build = s.build := rfl
@[simp] theorem State.raiseAuthFail_eng : s.raiseAuthFail.eng = s.eng := rfl
@[simp] theorem State.raiseAuthFail_ev : s.raiseAuthFail.ev = s.ev := rfl
@[simp] theorem State.raiseAuthFail_ak : s.raiseAuthFail.ak = s.ak := rfl
@[simp] theorem State.raiseAuthFail_ts : s.raiseAuthFail.ts = s.ts := rfl
@[simp] theorem State.raiseAuthFail_av : s.raiseAuthFail.av = s.av := rfl
@[simp] theorem State.raiseAuthFail_key : s.raiseAuthFail.key = s.key := rfl
@[simp] theorem State.raiseAuthFail_nonce : s.raiseAuthFail.nonce = s.nonce := rfl
@[simp] theorem State.raiseAuthFail_ctr : s.raiseAuthFail.ctr = s.ctr := rfl
@[simp] theorem State.raiseAuthFail_src : s.raiseAuthFail.src = s.src := rfl
@[simp] theorem State.raiseAuthFail_dst : s.raiseAuthFail.dst = s.dst := rfl
@[simp] theorem State.raiseAuthFail_len : s.raiseAuthFail.len = s.len := rfl
@[simp] theorem State.raiseAuthFail_dlen : s.raiseAuthFail.dlen = s.dlen := rfl
@[simp] theorem State.raiseAuthFail_aad : s.raiseAuthFail.aad = s.aad := rfl
@[simp] theorem State.raiseAuthFail_aadlen : s.raiseAuthFail.aadlen = s.aadlen := rfl
@[simp] theorem State.raiseAuthFail_sin : s.raiseAuthFail.sin = s.sin := rfl
@[simp] theorem State.raiseAuthFail_blk : s.raiseAuthFail.blk = s.blk := rfl
@[simp] theorem State.raiseAuthFail_subkey : s.raiseAuthFail.subkey = s.subkey := rfl
@[simp] theorem State.raiseAuthFail_tag : s.raiseAuthFail.tag = s.tag := rfl
@[simp] theorem State.raiseAuthFail_done : s.raiseAuthFail.done = s.done := rfl
@[simp] theorem State.raiseAuthFail_authFail : s.raiseAuthFail.authFail = true := rfl
@[simp] theorem State.raiseAuthFail_fatal : s.raiseAuthFail.fatal = s.fatal := rfl
@[simp] theorem State.raiseAuthFail_err : s.raiseAuthFail.err = s.err := rfl
@[simp] theorem State.raiseAuthFail_errcmd : s.raiseAuthFail.errcmd = s.errcmd := rfl
@[simp] theorem State.raiseAuthFail_ie : s.raiseAuthFail.ie = s.ie := rfl
@[simp] theorem State.raiseAuthFail_mbuf : s.raiseAuthFail.mbuf = s.mbuf := rfl
@[simp] theorem State.raiseAuthFail_running : s.raiseAuthFail.running = s.running := rfl
@[simp] theorem State.raiseAuthFail_held : s.raiseAuthFail.held = s.held := rfl
@[simp] theorem State.raiseAuthFail_host : s.raiseAuthFail.host = s.host := rfl
@[simp] theorem State.raiseAuthFail_resp : s.raiseAuthFail.resp = s.resp := rfl
@[simp] theorem State.raiseAuthFail_powerOns : s.raiseAuthFail.powerOns = s.powerOns := rfl
@[simp] theorem State.raiseAuthFail_aborts : s.raiseAuthFail.aborts = s.aborts := rfl

/-! ### `State.drop` writes BUSY (R305) and nothing else -/

@[simp] theorem State.drop_build : s.drop.build = s.build := rfl
@[simp] theorem State.drop_eng : s.drop.eng = s.eng := rfl
@[simp] theorem State.drop_ev : s.drop.ev = s.ev := rfl
@[simp] theorem State.drop_ak : s.drop.ak = s.ak := rfl
@[simp] theorem State.drop_ts : s.drop.ts = s.ts := rfl
@[simp] theorem State.drop_av : s.drop.av = s.av := rfl
@[simp] theorem State.drop_key : s.drop.key = s.key := rfl
@[simp] theorem State.drop_nonce : s.drop.nonce = s.nonce := rfl
@[simp] theorem State.drop_ctr : s.drop.ctr = s.ctr := rfl
@[simp] theorem State.drop_src : s.drop.src = s.src := rfl
@[simp] theorem State.drop_dst : s.drop.dst = s.dst := rfl
@[simp] theorem State.drop_len : s.drop.len = s.len := rfl
@[simp] theorem State.drop_dlen : s.drop.dlen = s.dlen := rfl
@[simp] theorem State.drop_aad : s.drop.aad = s.aad := rfl
@[simp] theorem State.drop_aadlen : s.drop.aadlen = s.aadlen := rfl
@[simp] theorem State.drop_sin : s.drop.sin = s.sin := rfl
@[simp] theorem State.drop_blk : s.drop.blk = s.blk := rfl
@[simp] theorem State.drop_subkey : s.drop.subkey = s.subkey := rfl
@[simp] theorem State.drop_tag : s.drop.tag = s.tag := rfl
@[simp] theorem State.drop_done : s.drop.done = s.done := rfl
@[simp] theorem State.drop_authFail : s.drop.authFail = s.authFail := rfl
@[simp] theorem State.drop_fatal : s.drop.fatal = s.fatal := rfl
@[simp] theorem State.drop_err : s.drop.err = s.err := rfl
@[simp] theorem State.drop_errcmd : s.drop.errcmd = s.errcmd := rfl
@[simp] theorem State.drop_ie : s.drop.ie = s.ie := rfl
@[simp] theorem State.drop_mbuf : s.drop.mbuf = s.mbuf := rfl
@[simp] theorem State.drop_running : s.drop.running = none := rfl
@[simp] theorem State.drop_held : s.drop.held = s.held := rfl
@[simp] theorem State.drop_host : s.drop.host = s.host := rfl
@[simp] theorem State.drop_resp : s.drop.resp = s.resp := rfl
@[simp] theorem State.drop_powerOns : s.drop.powerOns = s.powerOns := rfl
@[simp] theorem State.drop_aborts : s.drop.aborts = s.aborts := rfl

/-! ### `State.resetRegisters` keeps the build, MBUF, the events to come and the counts of draws -/

@[simp] theorem State.resetRegisters_build : s.resetRegisters.build = s.build := rfl
@[simp] theorem State.resetRegisters_eng : s.resetRegisters.eng = State.reset.eng := rfl
@[simp] theorem State.resetRegisters_ev : s.resetRegisters.ev = State.reset.ev := rfl
@[simp] theorem State.resetRegisters_ak : s.resetRegisters.ak = State.reset.ak := rfl
@[simp] theorem State.resetRegisters_ts : s.resetRegisters.ts = State.reset.ts := rfl
@[simp] theorem State.resetRegisters_av : s.resetRegisters.av = State.reset.av := rfl
@[simp] theorem State.resetRegisters_key : s.resetRegisters.key = State.reset.key := rfl
@[simp] theorem State.resetRegisters_nonce : s.resetRegisters.nonce = State.reset.nonce := rfl
@[simp] theorem State.resetRegisters_ctr : s.resetRegisters.ctr = State.reset.ctr := rfl
@[simp] theorem State.resetRegisters_src : s.resetRegisters.src = State.reset.src := rfl
@[simp] theorem State.resetRegisters_dst : s.resetRegisters.dst = State.reset.dst := rfl
@[simp] theorem State.resetRegisters_len : s.resetRegisters.len = State.reset.len := rfl
@[simp] theorem State.resetRegisters_dlen : s.resetRegisters.dlen = State.reset.dlen := rfl
@[simp] theorem State.resetRegisters_aad : s.resetRegisters.aad = State.reset.aad := rfl
@[simp] theorem State.resetRegisters_aadlen : s.resetRegisters.aadlen = State.reset.aadlen := rfl
@[simp] theorem State.resetRegisters_sin : s.resetRegisters.sin = State.reset.sin := rfl
@[simp] theorem State.resetRegisters_blk : s.resetRegisters.blk = State.reset.blk := rfl
@[simp] theorem State.resetRegisters_subkey : s.resetRegisters.subkey = State.reset.subkey := rfl
@[simp] theorem State.resetRegisters_tag : s.resetRegisters.tag = State.reset.tag := rfl
@[simp] theorem State.resetRegisters_done : s.resetRegisters.done = State.reset.done := rfl
@[simp] theorem State.resetRegisters_authFail : s.resetRegisters.authFail = State.reset.authFail := rfl
@[simp] theorem State.resetRegisters_fatal : s.resetRegisters.fatal = State.reset.fatal := rfl
@[simp] theorem State.resetRegisters_err : s.resetRegisters.err = State.reset.err := rfl
@[simp] theorem State.resetRegisters_errcmd : s.resetRegisters.errcmd = State.reset.errcmd := rfl
@[simp] theorem State.resetRegisters_ie : s.resetRegisters.ie = State.reset.ie := rfl
@[simp] theorem State.resetRegisters_mbuf : s.resetRegisters.mbuf = s.mbuf := rfl
@[simp] theorem State.resetRegisters_running : s.resetRegisters.running = State.reset.running := rfl
@[simp] theorem State.resetRegisters_held : s.resetRegisters.held = State.reset.held := rfl
@[simp] theorem State.resetRegisters_host : s.resetRegisters.host = s.host := rfl
@[simp] theorem State.resetRegisters_resp : s.resetRegisters.resp = State.reset.resp := rfl
@[simp] theorem State.resetRegisters_powerOns : s.resetRegisters.powerOns = s.powerOns := rfl
@[simp] theorem State.resetRegisters_aborts : s.resetRegisters.aborts = s.aborts := rfl

end Sys2Proof.Machine
end

