-- ==== Sys2Proof/Laws/Command.lean ====
section
/-! SUPPORT. What the shared frame of every command can do: dropped, fatal, or its effect (45_host_access.md
rule R274). The commands' meanings are read through these lemmas. -/

namespace Sys2Proof.Machine

theorem State.command_fatal {s : State} (h : s.fatal = true) (w : Word) (e : Option ErrCode)
    (f : State → State) : s.command w e f = .next s.drop := by
  simp [State.command, h]

theorem State.command_error {s : State} (h : s.fatal = false) (w : Word) (c : ErrCode)
    (f : State → State) : s.command w (some c) f = .next (s.raiseFatal c w).complete := by
  simp [State.command, h]

theorem State.command_effect {s : State} (h : s.fatal = false) (w : Word) (f : State → State) :
    s.command w none f = .next (f s).complete := by
  simp [State.command, h]

/-- A command always answers a next state, and it is one of three. -/
theorem State.command_cases (s : State) (w : Word) (e : Option ErrCode) (f : State → State) :
    (s.fatal = true ∧ s.command w e f = .next s.drop) ∨
    (s.fatal = false ∧ ∃ c, e = some c ∧ s.command w e f = .next (s.raiseFatal c w).complete) ∨
    (s.fatal = false ∧ e = none ∧ s.command w e f = .next (f s).complete) := by
  cases hf : s.fatal with
  | true => exact .inl ⟨rfl, s.command_fatal hf w e f⟩
  | false =>
    cases e with
    | none => exact .inr (.inr ⟨rfl, rfl, State.command_effect hf w f⟩)
    | some c => exact .inr (.inl ⟨rfl, c, rfl, State.command_error hf w c f⟩)

/-- The checks of a command on the state before it, in one function. -/
def State.errorOf (s : State) : Instr → Option ErrCode
  | .nop => none
  | .perm rnd _ => permError rnd
  | .block => s.blockError
  | .setup rnd nlen => setupError rnd nlen
  | .hchacha => none
  | .crypt => s.cryptError
  | .setctr => s.setctrError
  | .setnonce nlen => s.setnonceError nlen
  | .oneshot rnd nlen => s.oneshotError rnd nlen
  | .aeadInit tsz => aeadInitError tsz
  | .aeadSeal nlen => s.sealError nlen
  | .aeadOpen nlen => s.openError nlen

/-- The effects of a command whose checks pass, in one function. -/
def State.effectOf (s : State) : Instr → State
  | .nop => s
  | .perm rnd ff => s.permEffect rnd ff
  | .block => s.blockEffect
  | .setup rnd nlen => s.setupEffect rnd nlen
  | .hchacha => s.hchachaEffect
  | .crypt => s.cryptEffect
  | .setctr => s.setctrEffect
  | .setnonce nlen => s.setnonceEffect nlen
  | .oneshot rnd nlen => s.oneshotEffect rnd nlen
  | .aeadInit tsz => s.aeadInitEffect tsz
  | .aeadSeal _ => s.sealEffect
  | .aeadOpen _ => s.openEffect

/-- Every command is the common frame around its checks and its effect. -/
theorem exec_eq_command (i : Instr) (s : State) :
    exec i s = s.command (encode i) (s.errorOf i) (·.effectOf i) := by
  cases i <;> rfl

end Sys2Proof.Machine
end

