-- ==== Sys2Proof/Laws/Decode.lean ====
section
/-! SUPPORT. What the decoder's table and the encoder's packing do (30_encoding.md rules R111 and R113). -/

namespace Sys2Proof

/-! ### The fields of a packed word -/

/-- Bit i of a placed field. -/
theorem getElem_place {n : Nat} (lo : Nat) (v : BitVec n) (i : Nat) (h : i < 32) :
    (place lo v)[i] = (decide (lo ≤ i) && v.getLsbD (i - lo)) := by
  by_cases h2 : lo ≤ i
  · simp [place, h2, Nat.not_lt.2 h2]
  · simp [place, h2, Nat.lt_of_not_le h2]

theorem fieldOp_packWord (op rnd nlen : Nat) (ff : Bool) (tsz : Nat) :
    fieldOp (packWord op rnd nlen ff tsz) = op % 2 ^ 8 := by
  rw [fieldOp, field, show (packWord op rnd nlen ff tsz).extractLsb' 0 (7 + 1 - 0) = BitVec.ofNat 8 op from
    BitVec.eq_of_getLsbD_eq fun i hi => by
      interval_cases i <;> simp [packWord, getElem_place]]
  simp

theorem fieldRnd_packWord (op rnd nlen : Nat) (ff : Bool) (tsz : Nat) :
    fieldRnd (packWord op rnd nlen ff tsz) = rnd % 2 ^ 8 := by
  rw [fieldRnd, field, show (packWord op rnd nlen ff tsz).extractLsb' 8 (15 + 1 - 8) = BitVec.ofNat 8 rnd from
    BitVec.eq_of_getLsbD_eq fun i hi => by
      interval_cases i <;> simp [packWord, getElem_place]]
  simp

theorem fieldNlen_packWord (op rnd nlen : Nat) (ff : Bool) (tsz : Nat) :
    fieldNlen (packWord op rnd nlen ff tsz) = nlen % 2 ^ 5 := by
  rw [fieldNlen, field, show (packWord op rnd nlen ff tsz).extractLsb' 16 (20 + 1 - 16) = BitVec.ofNat 5 nlen from
    BitVec.eq_of_getLsbD_eq fun i hi => by
      interval_cases i <;> simp [packWord, getElem_place]]
  simp

theorem fieldFf_packWord (op rnd nlen : Nat) (ff : Bool) (tsz : Nat) :
    fieldFf (packWord op rnd nlen ff tsz) = ff := by
  simp [fieldFf, packWord, getElem_place]

theorem fieldTsz_packWord (op rnd nlen : Nat) (ff : Bool) (tsz : Nat) :
    fieldTsz (packWord op rnd nlen ff tsz) = tsz % 2 ^ 5 := by
  rw [fieldTsz, field, show (packWord op rnd nlen ff tsz).extractLsb' 24 (28 + 1 - 24) = BitVec.ofNat 5 tsz from
    BitVec.eq_of_getLsbD_eq fun i hi => by
      interval_cases i <;> simp [packWord, getElem_place]]
  simp

/-! ### The rows -/

/-- A word that matches a row has the row's opcode, since every mask includes all of OP. -/
theorem op_of_row {w : Word} {r : Row} (hr : r ∈ opcodeRows) (h : w &&& r.mask = r.value) :
    w.extractLsb' 0 8 = r.value.extractLsb' 0 8 := by
  rw [← h, BitVec.extractLsb'_and]
  have : r.mask.extractLsb' 0 8 = BitVec.allOnes 8 := by
    simp only [opcodeRows, List.mem_cons, List.not_mem_nil, or_false] at hr
    rcases hr with rfl | rfl | rfl | rfl | rfl | rfl | rfl | rfl | rfl | rfl | rfl | rfl <;> decide
  rw [this, BitVec.and_allOnes]

/-- No two rows have the same opcode. -/
theorem row_unique {r q : Row} (hr : r ∈ opcodeRows) (hq : q ∈ opcodeRows)
    (h : r.value.extractLsb' 0 8 = q.value.extractLsb' 0 8) : r = q := by
  simp only [opcodeRows, List.mem_cons, List.not_mem_nil, or_false] at hr hq
  rcases hr with rfl | rfl | rfl | rfl | rfl | rfl | rfl | rfl | rfl | rfl | rfl | rfl <;>
  rcases hq with rfl | rfl | rfl | rfl | rfl | rfl | rfl | rfl | rfl | rfl | rfl | rfl <;>
  first | rfl | exact absurd h (by decide)

/-- The table finds the row a word matches: there is only one. -/
theorem matchingRow_eq_some {w : Word} {r : Row} :
    matchingRow w = some r ↔ r ∈ opcodeRows ∧ w &&& r.mask = r.value := by
  constructor
  · intro h
    exact ⟨List.mem_of_find?_eq_some h, by simpa using List.find?_some h⟩
  · rintro ⟨hr, h⟩
    cases hm : matchingRow w with
    | none => exact absurd h (by simpa using List.find?_eq_none.1 hm r hr)
    | some q =>
      have hq := List.mem_of_find?_eq_some hm
      have hqw : w &&& q.mask = q.value := by simpa using List.find?_some hm
      rw [row_unique hr hq ((op_of_row hr h).symm.trans (op_of_row hq hqw))]

theorem matchingRow_eq_none {w : Word} :
    matchingRow w = none ↔ ∀ r ∈ opcodeRows, w &&& r.mask ≠ r.value := by
  simp [matchingRow]

/-- What decoding to a command means. -/
theorem decode_eq_ok {w : Word} {i : Instr} :
    decode w = .ok i ↔ ∃ r ∈ opcodeRows, w &&& r.mask = r.value ∧ r.read w = i := by
  unfold decode
  cases h : matchingRow w with
  | none =>
    have := matchingRow_eq_none.1 h
    simp only [reduceCtorEq, false_iff, not_exists, not_and]
    exact fun r hr hw => absurd hw (this r hr)
  | some q =>
    obtain ⟨hq, hw⟩ := matchingRow_eq_some.1 h
    simp only [Except.ok.injEq]
    constructor
    · exact fun hi => ⟨q, hq, hw, hi⟩
    · rintro ⟨r, hr, hrw, hi⟩
      rwa [row_unique hq hr ((op_of_row hq hw).symm.trans (op_of_row hr hrw))]

end Sys2Proof
end

