-- ==== Sys2Proof/Laws/Stream.lean ====
section
/-! SUPPORT. What the streaming XOR can do (43_engine.md rule R191): it XORs its input with a keystream
that only the engine and the length determine, and leaves an engine that they determine too. -/

namespace Sys2Proof.Machine

/-! ### The counter -/

/-- The increment touches no word but 12 and 13. -/
theorem getElem_inc_of_ne (s : Words16) (nv i : Nat) (hi : i < 16) (h12 : i ≠ 12) (h13 : i ≠ 13) :
    (inc s nv)[i] = s[i] := by
  unfold inc
  split
  · simp [Ne.symm h12]
  · simp [Ne.symm h12, Ne.symm h13]

/-! ### The three steps -/

/-- What the engine of a stream keeps: rounds, variant, and every word but the counter's. -/
structure Engine.Follows (e e' : Engine) : Prop where
  r  : e'.r = e.r
  nv : e'.nv = e.nv
  s  : ∀ i (hi : i < 16), i ≠ 12 → i ≠ 13 → e'.s[i] = e.s[i]

theorem Engine.Follows.refl (e : Engine) : e.Follows e := ⟨rfl, rfl, fun _ _ _ _ => rfl⟩

theorem Engine.Follows.trans {a b c : Engine} (h : a.Follows b) (g : b.Follows c) : a.Follows c :=
  ⟨g.r.trans h.r, g.nv.trans h.nv, fun i hi h1 h2 => (g.s i hi h1 h2).trans (h.s i hi h1 h2)⟩

theorem Engine.Follows.generate (e : Engine) (ks : Vector Byte 64) (off : Fin 64) :
    e.Follows { e with s := (Sys2Proof.Machine.generate e.s e.r e.nv).2, ks := ks, off := off } :=
  ⟨rfl, rfl, fun i hi h1 h2 => getElem_inc_of_ne e.s e.nv i hi h1 h2⟩

theorem Engine.drain_keystream (e : Engine) (n : Nat) :
    ∃ K e', K.length ≤ n ∧ e.Follows e' ∧
      ∀ S : ByteString, S.length = n → e.drain S = (xorBytes S K, e') := by
  by_cases h : 0 < e.off.val
  · refine ⟨(e.ks.toList.drop e.off.val).take (min n (64 - e.off.val)),
      { e with off := Fin.ofNat 64 (e.off.val + min n (64 - e.off.val)) }, by simp,
      ⟨rfl, rfl, fun _ _ _ _ => rfl⟩, fun S hS => ?_⟩
    simp only [Engine.drain, h, if_true, hS, xorBytes_take]
  · exact ⟨[], e, by simp, .refl e, fun S _ => by simp [Engine.drain, h, xorBytes]⟩

theorem Engine.wholeBlocks_keystream (e : Engine) (m : Nat) :
    ∃ K e', K.length = 64 * m ∧ e.Follows e' ∧ ∀ S, e.wholeBlocks m S = (xorBytes S K, e') := by
  induction m generalizing e with
  | zero => exact ⟨[], e, by simp, .refl e, fun S => by simp [Engine.wholeBlocks, xorBytes]⟩
  | succ m ih =>
    obtain ⟨K, e', hK, hf, h⟩ := ih { e with s := (generate e.s e.r e.nv).2 }
    refine ⟨(generate e.s e.r e.nv).1.toList ++ K, e', by simp [hK]; omega,
      (Engine.Follows.generate e e.ks e.off).trans hf, fun S => ?_⟩
    simp [Engine.wholeBlocks, h, xorBytes_append]

theorem Engine.tail_keystream (e : Engine) (n : Nat) (hn : n < 64) :
    ∃ K e', K.length = n ∧ e.Follows e' ∧
      ∀ S : ByteString, S.length = n → e.tail S = (xorBytes S K, e') := by
  by_cases h : 0 < n
  · refine ⟨(generate e.s e.r e.nv).1.toList.take n, _, by simp; omega,
      Engine.Follows.generate e (generate e.s e.r e.nv).1 (Fin.ofNat 64 n), fun S hS => ?_⟩
    subst hS
    simp [Engine.tail, h, ← xorBytes_take]
  · refine ⟨[], e, by simp; omega, .refl e, fun S hS => ?_⟩
    simp [Engine.tail, hS, h, xorBytes]

/-! ### The whole -/

/-- `xks` XORs a string of length n with n keystream bytes, and the engine it leaves follows the one it
was given. -/
theorem xks_keystream (e : Engine) (n : Nat) :
    ∃ K e', K.length = n ∧ e.Follows e' ∧
      ∀ S : ByteString, S.length = n → xks e S = (xorBytes S K, e') := by
  obtain ⟨K1, e1, h1, f1, d⟩ := e.drain_keystream n
  obtain ⟨K2, e2, h2, f2, b⟩ := e1.wholeBlocks_keystream ((n - K1.length) / 64)
  obtain ⟨K3, e3, h3, f3, t⟩ := e2.tail_keystream ((n - K1.length) % 64) (Nat.mod_lt _ (by omega))
  refine ⟨K1 ++ (K2 ++ K3), e3, by simp only [List.length_append]; omega, (f1.trans f2).trans f3, ?_⟩
  intro S hS
  have hl : (xorBytes S K1).length = K1.length := by simp; omega
  have hS1 : (S.drop K1.length).length = n - K1.length := by simp [hS]
  simp only [xks, d S hS, hl, hS1, b]
  rw [t _ (by simp only [List.length_drop, hS]; omega), xorBytes_append', xorBytes_append', h2]
  simp

/-- The output is as long as the input. -/
@[simp] theorem length_xks (e : Engine) (S : ByteString) : (xks e S).1.length = S.length := by
  obtain ⟨K, e', hK, -, h⟩ := xks_keystream e S.length
  simp [h S rfl, hK]

/-- Rounds, variant and every word but the counter's stay. -/
theorem xks_follows (e : Engine) (S : ByteString) : e.Follows (xks e S).2 := by
  obtain ⟨K, e', -, hf, h⟩ := xks_keystream e S.length
  simpa [h S rfl] using hf

/-- The engine left depends on the length alone. -/
theorem xks_engine_congr (e : Engine) {S T : ByteString} (h : S.length = T.length) :
    (xks e S).2 = (xks e T).2 := by
  obtain ⟨K, e', -, -, hk⟩ := xks_keystream e S.length
  rw [hk S rfl, hk T h.symm]

/-- Streaming the output through the same engine gives the input back. -/
theorem xks_xks (e : Engine) (S : ByteString) : (xks e (xks e S).1).1 = S := by
  obtain ⟨K, e', hK, -, h⟩ := xks_keystream e S.length
  rw [h (xks e S).1 (by simp), h S rfl]
  exact xorBytes_xorBytes S K (by omega)

end Sys2Proof.Machine
end

