-- ==== Sys2Proof/Laws/Effects.lean ====
section
/-! SUPPORT. What each command's effect writes, as one record update of the state before it: every field not
named in the update stays. These are the equations to rewrite with; unfolding an effect and its `let`s in a
large goal is slow. -/

namespace Sys2Proof.Machine

variable (s : State)

theorem State.blockEffect_eq :
    s.blockEffect = { s with
      blk := wordsOf 16 (block s.eng.s s.eng.r).toList
      eng := { s.eng with s := inc s.eng.s s.eng.nv } } := rfl

theorem State.cryptEffect_eq :
    s.cryptEffect = { s with
      mbuf := s.memWrite s.dst.val (xks s.eng (s.memRead s.src.val s.len.val)).1
      eng := (xks s.eng (s.memRead s.src.val s.len.val)).2 } := rfl

theorem State.oneshotEffect_eq (rnd nlen : Nat) :
    s.oneshotEffect rnd nlen = { s with
      mbuf := s.memWrite s.dst.val
        (xks (s.oneshotEngine rnd nlen) (s.memRead s.src.val s.len.val)).1 } := rfl

theorem State.sealEffect_eq :
    s.sealEffect = { s with
      mbuf := s.memWrite s.dst.val (s.sealBody ++ s.expectedTag s.sealBody)
      tag := tagWords (s.expectedTag s.sealBody)
      authFail := false } := rfl

theorem State.openEffect_accepts (h : s.authentic = true) :
    s.openEffect = { s with
      mbuf := s.memWrite s.dst.val
        (xks (aeadSetup s.ak.toList (s.nonceBytes 12)).1 s.openBody).1
      tag := .replicate 4 0
      authFail := false } := by
  simp only [State.openEffect, h, if_true]

theorem State.openEffect_rejects (h : s.authentic = false) :
    s.openEffect = { s with tag := .replicate 4 0, authFail := true } := by
  simp only [State.openEffect, h]; rfl

/-! ### The lengths of what is written -/

@[simp] theorem State.length_sealBody : s.sealBody.length = s.len.val := by simp [State.sealBody]

@[simp] theorem State.length_expectedTag (C : ByteString) : (s.expectedTag C).length = min s.ts 16 := by
  simp [State.expectedTag, mac]

theorem State.openBodyLen_eq : s.openBodyLen = s.len.val - s.ts := by
  unfold State.openBodyLen; split <;> omega

@[simp] theorem State.length_openBody : s.openBody.length = s.openBodyLen := by simp [State.openBody]

/-! ### Field by field -/

@[simp] theorem State.permEffect_eng (rnd : Nat) (ff : Bool) : (s.permEffect rnd ff).eng = s.eng := by rw [State.permEffect]
@[simp] theorem State.permEffect_ev (rnd : Nat) (ff : Bool) : (s.permEffect rnd ff).ev = s.ev := by rw [State.permEffect]
@[simp] theorem State.permEffect_ak (rnd : Nat) (ff : Bool) : (s.permEffect rnd ff).ak = s.ak := by rw [State.permEffect]
@[simp] theorem State.permEffect_ts (rnd : Nat) (ff : Bool) : (s.permEffect rnd ff).ts = s.ts := by rw [State.permEffect]
@[simp] theorem State.permEffect_av (rnd : Nat) (ff : Bool) : (s.permEffect rnd ff).av = s.av := by rw [State.permEffect]
@[simp] theorem State.permEffect_blk (rnd : Nat) (ff : Bool) : (s.permEffect rnd ff).blk = permResult rnd ff s.sin := by rw [State.permEffect]
@[simp] theorem State.permEffect_subkey (rnd : Nat) (ff : Bool) : (s.permEffect rnd ff).subkey = s.subkey := by rw [State.permEffect]
@[simp] theorem State.permEffect_tag (rnd : Nat) (ff : Bool) : (s.permEffect rnd ff).tag = s.tag := by rw [State.permEffect]
@[simp] theorem State.permEffect_authFail (rnd : Nat) (ff : Bool) : (s.permEffect rnd ff).authFail = s.authFail := by rw [State.permEffect]
@[simp] theorem State.permEffect_mbuf (rnd : Nat) (ff : Bool) : (s.permEffect rnd ff).mbuf = s.mbuf := by rw [State.permEffect]

@[simp] theorem State.blockEffect_ev : s.blockEffect.ev = s.ev := by rw [State.blockEffect]
@[simp] theorem State.blockEffect_ak : s.blockEffect.ak = s.ak := by rw [State.blockEffect]
@[simp] theorem State.blockEffect_ts : s.blockEffect.ts = s.ts := by rw [State.blockEffect]
@[simp] theorem State.blockEffect_av : s.blockEffect.av = s.av := by rw [State.blockEffect]
@[simp] theorem State.blockEffect_subkey : s.blockEffect.subkey = s.subkey := by rw [State.blockEffect]
@[simp] theorem State.blockEffect_tag : s.blockEffect.tag = s.tag := by rw [State.blockEffect]
@[simp] theorem State.blockEffect_authFail : s.blockEffect.authFail = s.authFail := by rw [State.blockEffect]
@[simp] theorem State.blockEffect_mbuf : s.blockEffect.mbuf = s.mbuf := by rw [State.blockEffect]

@[simp] theorem State.setupEffect_ev (rnd nlen : Nat) : (s.setupEffect rnd nlen).ev = true := by rw [State.setupEffect]
@[simp] theorem State.setupEffect_ak (rnd nlen : Nat) : (s.setupEffect rnd nlen).ak = s.ak := by rw [State.setupEffect]
@[simp] theorem State.setupEffect_ts (rnd nlen : Nat) : (s.setupEffect rnd nlen).ts = s.ts := by rw [State.setupEffect]
@[simp] theorem State.setupEffect_av (rnd nlen : Nat) : (s.setupEffect rnd nlen).av = s.av := by rw [State.setupEffect]
@[simp] theorem State.setupEffect_blk (rnd nlen : Nat) : (s.setupEffect rnd nlen).blk = s.blk := by rw [State.setupEffect]
@[simp] theorem State.setupEffect_subkey (rnd nlen : Nat) : (s.setupEffect rnd nlen).subkey = s.subkey := by rw [State.setupEffect]
@[simp] theorem State.setupEffect_tag (rnd nlen : Nat) : (s.setupEffect rnd nlen).tag = s.tag := by rw [State.setupEffect]
@[simp] theorem State.setupEffect_authFail (rnd nlen : Nat) : (s.setupEffect rnd nlen).authFail = s.authFail := by rw [State.setupEffect]
@[simp] theorem State.setupEffect_mbuf (rnd nlen : Nat) : (s.setupEffect rnd nlen).mbuf = s.mbuf := by rw [State.setupEffect]

@[simp] theorem State.hchachaEffect_eng : s.hchachaEffect.eng = s.eng := by rw [State.hchachaEffect]
@[simp] theorem State.hchachaEffect_ev : s.hchachaEffect.ev = s.ev := by rw [State.hchachaEffect]
@[simp] theorem State.hchachaEffect_ak : s.hchachaEffect.ak = s.ak := by rw [State.hchachaEffect]
@[simp] theorem State.hchachaEffect_ts : s.hchachaEffect.ts = s.ts := by rw [State.hchachaEffect]
@[simp] theorem State.hchachaEffect_av : s.hchachaEffect.av = s.av := by rw [State.hchachaEffect]
@[simp] theorem State.hchachaEffect_blk : s.hchachaEffect.blk = s.blk := by rw [State.hchachaEffect]
@[simp] theorem State.hchachaEffect_tag : s.hchachaEffect.tag = s.tag := by rw [State.hchachaEffect]
@[simp] theorem State.hchachaEffect_authFail : s.hchachaEffect.authFail = s.authFail := by rw [State.hchachaEffect]
@[simp] theorem State.hchachaEffect_mbuf : s.hchachaEffect.mbuf = s.mbuf := by rw [State.hchachaEffect]

@[simp] theorem State.cryptEffect_eng : s.cryptEffect.eng = (xks s.eng (s.memRead s.src.val s.len.val)).2 := by rw [State.cryptEffect]
@[simp] theorem State.cryptEffect_ev : s.cryptEffect.ev = s.ev := by rw [State.cryptEffect]
@[simp] theorem State.cryptEffect_ak : s.cryptEffect.ak = s.ak := by rw [State.cryptEffect]
@[simp] theorem State.cryptEffect_ts : s.cryptEffect.ts = s.ts := by rw [State.cryptEffect]
@[simp] theorem State.cryptEffect_av : s.cryptEffect.av = s.av := by rw [State.cryptEffect]
@[simp] theorem State.cryptEffect_blk : s.cryptEffect.blk = s.blk := by rw [State.cryptEffect]
@[simp] theorem State.cryptEffect_subkey : s.cryptEffect.subkey = s.subkey := by rw [State.cryptEffect]
@[simp] theorem State.cryptEffect_tag : s.cryptEffect.tag = s.tag := by rw [State.cryptEffect]
@[simp] theorem State.cryptEffect_authFail : s.cryptEffect.authFail = s.authFail := by rw [State.cryptEffect]
@[simp] theorem State.cryptEffect_mbuf : s.cryptEffect.mbuf = s.memWrite s.dst.val (xks s.eng (s.memRead s.src.val s.len.val)).1 := by rw [State.cryptEffect]

@[simp] theorem State.setctrEffect_ev : s.setctrEffect.ev = s.ev := by rw [State.setctrEffect]
@[simp] theorem State.setctrEffect_ak : s.setctrEffect.ak = s.ak := by rw [State.setctrEffect]
@[simp] theorem State.setctrEffect_ts : s.setctrEffect.ts = s.ts := by rw [State.setctrEffect]
@[simp] theorem State.setctrEffect_av : s.setctrEffect.av = s.av := by rw [State.setctrEffect]
@[simp] theorem State.setctrEffect_blk : s.setctrEffect.blk = s.blk := by rw [State.setctrEffect]
@[simp] theorem State.setctrEffect_subkey : s.setctrEffect.subkey = s.subkey := by rw [State.setctrEffect]
@[simp] theorem State.setctrEffect_tag : s.setctrEffect.tag = s.tag := by rw [State.setctrEffect]
@[simp] theorem State.setctrEffect_authFail : s.setctrEffect.authFail = s.authFail := by rw [State.setctrEffect]
@[simp] theorem State.setctrEffect_mbuf : s.setctrEffect.mbuf = s.mbuf := by rw [State.setctrEffect]

@[simp] theorem State.setnonceEffect_ev (nlen : Nat) : (s.setnonceEffect nlen).ev = s.ev := by rw [State.setnonceEffect]
@[simp] theorem State.setnonceEffect_ak (nlen : Nat) : (s.setnonceEffect nlen).ak = s.ak := by rw [State.setnonceEffect]
@[simp] theorem State.setnonceEffect_ts (nlen : Nat) : (s.setnonceEffect nlen).ts = s.ts := by rw [State.setnonceEffect]
@[simp] theorem State.setnonceEffect_av (nlen : Nat) : (s.setnonceEffect nlen).av = s.av := by rw [State.setnonceEffect]
@[simp] theorem State.setnonceEffect_blk (nlen : Nat) : (s.setnonceEffect nlen).blk = s.blk := by rw [State.setnonceEffect]
@[simp] theorem State.setnonceEffect_subkey (nlen : Nat) : (s.setnonceEffect nlen).subkey = s.subkey := by rw [State.setnonceEffect]
@[simp] theorem State.setnonceEffect_tag (nlen : Nat) : (s.setnonceEffect nlen).tag = s.tag := by rw [State.setnonceEffect]
@[simp] theorem State.setnonceEffect_authFail (nlen : Nat) : (s.setnonceEffect nlen).authFail = s.authFail := by rw [State.setnonceEffect]
@[simp] theorem State.setnonceEffect_mbuf (nlen : Nat) : (s.setnonceEffect nlen).mbuf = s.mbuf := by rw [State.setnonceEffect]

@[simp] theorem State.oneshotEffect_eng (rnd nlen : Nat) : (s.oneshotEffect rnd nlen).eng = s.eng := by rw [State.oneshotEffect]
@[simp] theorem State.oneshotEffect_ev (rnd nlen : Nat) : (s.oneshotEffect rnd nlen).ev = s.ev := by rw [State.oneshotEffect]
@[simp] theorem State.oneshotEffect_ak (rnd nlen : Nat) : (s.oneshotEffect rnd nlen).ak = s.ak := by rw [State.oneshotEffect]
@[simp] theorem State.oneshotEffect_ts (rnd nlen : Nat) : (s.oneshotEffect rnd nlen).ts = s.ts := by rw [State.oneshotEffect]
@[simp] theorem State.oneshotEffect_av (rnd nlen : Nat) : (s.oneshotEffect rnd nlen).av = s.av := by rw [State.oneshotEffect]
@[simp] theorem State.oneshotEffect_blk (rnd nlen : Nat) : (s.oneshotEffect rnd nlen).blk = s.blk := by rw [State.oneshotEffect]
@[simp] theorem State.oneshotEffect_subkey (rnd nlen : Nat) : (s.oneshotEffect rnd nlen).subkey = s.subkey := by rw [State.oneshotEffect]
@[simp] theorem State.oneshotEffect_tag (rnd nlen : Nat) : (s.oneshotEffect rnd nlen).tag = s.tag := by rw [State.oneshotEffect]
@[simp] theorem State.oneshotEffect_authFail (rnd nlen : Nat) : (s.oneshotEffect rnd nlen).authFail = s.authFail := by rw [State.oneshotEffect]

@[simp] theorem State.aeadInitEffect_eng (tsz : Nat) : (s.aeadInitEffect tsz).eng = s.eng := by rw [State.aeadInitEffect]
@[simp] theorem State.aeadInitEffect_ev (tsz : Nat) : (s.aeadInitEffect tsz).ev = s.ev := by rw [State.aeadInitEffect]
@[simp] theorem State.aeadInitEffect_ak (tsz : Nat) : (s.aeadInitEffect tsz).ak = s.keyBytes := by rw [State.aeadInitEffect]
@[simp] theorem State.aeadInitEffect_ts (tsz : Nat) : (s.aeadInitEffect tsz).ts = tsz := by rw [State.aeadInitEffect]
@[simp] theorem State.aeadInitEffect_av (tsz : Nat) : (s.aeadInitEffect tsz).av = true := by rw [State.aeadInitEffect]
@[simp] theorem State.aeadInitEffect_blk (tsz : Nat) : (s.aeadInitEffect tsz).blk = s.blk := by rw [State.aeadInitEffect]
@[simp] theorem State.aeadInitEffect_subkey (tsz : Nat) : (s.aeadInitEffect tsz).subkey = s.subkey := by rw [State.aeadInitEffect]
@[simp] theorem State.aeadInitEffect_tag (tsz : Nat) : (s.aeadInitEffect tsz).tag = s.tag := by rw [State.aeadInitEffect]
@[simp] theorem State.aeadInitEffect_authFail (tsz : Nat) : (s.aeadInitEffect tsz).authFail = s.authFail := by rw [State.aeadInitEffect]
@[simp] theorem State.aeadInitEffect_mbuf (tsz : Nat) : (s.aeadInitEffect tsz).mbuf = s.mbuf := by rw [State.aeadInitEffect]

@[simp] theorem State.sealEffect_eng : s.sealEffect.eng = s.eng := by rw [State.sealEffect]
@[simp] theorem State.sealEffect_ev : s.sealEffect.ev = s.ev := by rw [State.sealEffect]
@[simp] theorem State.sealEffect_ak : s.sealEffect.ak = s.ak := by rw [State.sealEffect]
@[simp] theorem State.sealEffect_ts : s.sealEffect.ts = s.ts := by rw [State.sealEffect]
@[simp] theorem State.sealEffect_av : s.sealEffect.av = s.av := by rw [State.sealEffect]
@[simp] theorem State.sealEffect_blk : s.sealEffect.blk = s.blk := by rw [State.sealEffect]
@[simp] theorem State.sealEffect_subkey : s.sealEffect.subkey = s.subkey := by rw [State.sealEffect]
@[simp] theorem State.sealEffect_tag : s.sealEffect.tag = tagWords (s.expectedTag s.sealBody) := by rw [State.sealEffect]
@[simp] theorem State.sealEffect_authFail : s.sealEffect.authFail = false := by rw [State.sealEffect]
@[simp] theorem State.sealEffect_mbuf : s.sealEffect.mbuf = s.memWrite s.dst.val (s.sealBody ++ s.expectedTag s.sealBody) := by rw [State.sealEffect]

@[simp] theorem State.openEffect_eng : s.openEffect.eng = s.eng := by
  unfold State.openEffect; split <;> rfl
@[simp] theorem State.openEffect_ev : s.openEffect.ev = s.ev := by
  unfold State.openEffect; split <;> rfl
@[simp] theorem State.openEffect_ak : s.openEffect.ak = s.ak := by
  unfold State.openEffect; split <;> rfl
@[simp] theorem State.openEffect_ts : s.openEffect.ts = s.ts := by
  unfold State.openEffect; split <;> rfl
@[simp] theorem State.openEffect_av : s.openEffect.av = s.av := by
  unfold State.openEffect; split <;> rfl
@[simp] theorem State.openEffect_blk : s.openEffect.blk = s.blk := by
  unfold State.openEffect; split <;> rfl
@[simp] theorem State.openEffect_subkey : s.openEffect.subkey = s.subkey := by
  unfold State.openEffect; split <;> rfl
@[simp] theorem State.openEffect_tag : s.openEffect.tag = .replicate 4 0 := by
  unfold State.openEffect; split <;> rfl
@[simp] theorem State.openEffect_authFail : s.openEffect.authFail = !s.authentic := by
  unfold State.openEffect; split <;> simp_all [State.raiseAuthFail]

/-! ### What no command's effect writes -/

/-- A command's effect writes at most the contexts, the result registers, AUTH_FAIL and MBUF. -/
theorem State.effectOf_frame (i : Instr) :
    s.effectOf i = { s with
      eng := (s.effectOf i).eng, ev := (s.effectOf i).ev, ak := (s.effectOf i).ak
      ts := (s.effectOf i).ts, av := (s.effectOf i).av, blk := (s.effectOf i).blk
      subkey := (s.effectOf i).subkey, tag := (s.effectOf i).tag
      authFail := (s.effectOf i).authFail, mbuf := (s.effectOf i).mbuf } := by
  cases i with
  | nop => rfl
  | perm => rw [State.effectOf, State.permEffect]
  | block => rw [State.effectOf, State.blockEffect]
  | setup => rw [State.effectOf, State.setupEffect]
  | hchacha => rw [State.effectOf, State.hchachaEffect]
  | crypt => rw [State.effectOf, State.cryptEffect]
  | setctr => rw [State.effectOf, State.setctrEffect]
  | setnonce => rw [State.effectOf, State.setnonceEffect]
  | oneshot => rw [State.effectOf, State.oneshotEffect]
  | aeadInit => rw [State.effectOf, State.aeadInitEffect]
  | aeadSeal => rw [State.effectOf, State.sealEffect]
  | aeadOpen => rw [State.effectOf, State.openEffect]; split <;> rfl

@[simp] theorem State.effectOf_build (i : Instr) : (s.effectOf i).build = s.build := by
  rw [State.effectOf_frame]
@[simp] theorem State.effectOf_key (i : Instr) : (s.effectOf i).key = s.key := by
  rw [State.effectOf_frame]
@[simp] theorem State.effectOf_nonce (i : Instr) : (s.effectOf i).nonce = s.nonce := by
  rw [State.effectOf_frame]
@[simp] theorem State.effectOf_ctr (i : Instr) : (s.effectOf i).ctr = s.ctr := by
  rw [State.effectOf_frame]
@[simp] theorem State.effectOf_src (i : Instr) : (s.effectOf i).src = s.src := by
  rw [State.effectOf_frame]
@[simp] theorem State.effectOf_dst (i : Instr) : (s.effectOf i).dst = s.dst := by
  rw [State.effectOf_frame]
@[simp] theorem State.effectOf_len (i : Instr) : (s.effectOf i).len = s.len := by
  rw [State.effectOf_frame]
@[simp] theorem State.effectOf_dlen (i : Instr) : (s.effectOf i).dlen = s.dlen := by
  rw [State.effectOf_frame]
@[simp] theorem State.effectOf_aad (i : Instr) : (s.effectOf i).aad = s.aad := by
  rw [State.effectOf_frame]
@[simp] theorem State.effectOf_aadlen (i : Instr) : (s.effectOf i).aadlen = s.aadlen := by
  rw [State.effectOf_frame]
@[simp] theorem State.effectOf_sin (i : Instr) : (s.effectOf i).sin = s.sin := by
  rw [State.effectOf_frame]
@[simp] theorem State.effectOf_done (i : Instr) : (s.effectOf i).done = s.done := by
  rw [State.effectOf_frame]
@[simp] theorem State.effectOf_fatal (i : Instr) : (s.effectOf i).fatal = s.fatal := by
  rw [State.effectOf_frame]
@[simp] theorem State.effectOf_err (i : Instr) : (s.effectOf i).err = s.err := by
  rw [State.effectOf_frame]
@[simp] theorem State.effectOf_errcmd (i : Instr) : (s.effectOf i).errcmd = s.errcmd := by
  rw [State.effectOf_frame]
@[simp] theorem State.effectOf_ie (i : Instr) : (s.effectOf i).ie = s.ie := by
  rw [State.effectOf_frame]
@[simp] theorem State.effectOf_running (i : Instr) : (s.effectOf i).running = s.running := by
  rw [State.effectOf_frame]
@[simp] theorem State.effectOf_held (i : Instr) : (s.effectOf i).held = s.held := by
  rw [State.effectOf_frame]
@[simp] theorem State.effectOf_host (i : Instr) : (s.effectOf i).host = s.host := by
  rw [State.effectOf_frame]
@[simp] theorem State.effectOf_resp (i : Instr) : (s.effectOf i).resp = s.resp := by
  rw [State.effectOf_frame]
@[simp] theorem State.effectOf_powerOns (i : Instr) : (s.effectOf i).powerOns = s.powerOns := by
  rw [State.effectOf_frame]
@[simp] theorem State.effectOf_aborts (i : Instr) : (s.effectOf i).aborts = s.aborts := by
  rw [State.effectOf_frame]

end Sys2Proof.Machine
end

