-- ==== Sys2Proof/Laws/PerInstr.lean ====
section
/-! SUPPORT. A law of every command as syntax: which bits its command word may set (30_encoding.md rules R111
and R113). -/

namespace Sys2Proof.Laws.EncodedOpcode

/-- The opcode of rule R112. -/
def opcode : Instr → Nat
  | .nop => 0x00
  | .perm _ _ => 0x01
  | .block => 0x02
  | .setup _ _ => 0x03
  | .hchacha => 0x04
  | .crypt => 0x05
  | .setctr => 0x06
  | .setnonce _ => 0x07
  | .oneshot _ _ => 0x08
  | .aeadInit _ => 0x09
  | .aeadSeal _ => 0x0A
  | .aeadOpen _ => 0x0B

/-- The command word carries the command's opcode in OP, and 0 in every field the command does not use and
in the reserved bits. The command need not be well formed. -/
def Statement (i : Instr) : Prop :=
  fieldOp (encode i) = opcode i ∧
  (encode i).extractLsb' 22 2 = 0 ∧ (encode i).extractLsb' 29 3 = 0 ∧
  ((∀ r f, i ≠ .perm r f) → (∀ r n, i ≠ .setup r n) → (∀ r n, i ≠ .oneshot r n) → fieldRnd (encode i) = 0) ∧
  ((∀ t, i ≠ .aeadInit t) → fieldTsz (encode i) = 0) ∧
  ((∀ r f, i ≠ .perm r f) → fieldFf (encode i) = false)

/-- The reserved bits of a packed word are 0. -/
theorem reserved_packWord (op rnd nlen : Nat) (ff : Bool) (tsz : Nat) :
    (packWord op rnd nlen ff tsz).extractLsb' 22 2 = 0 ∧ (packWord op rnd nlen ff tsz).extractLsb' 29 3 = 0 := by
  constructor <;>
  · refine BitVec.eq_of_getLsbD_eq fun i hi => ?_
    interval_cases i <;> simp [packWord, getElem_place]

/-- What a packed word says about the statement's fields. -/
theorem of_packWord {i : Instr} {op rnd nlen tsz : Nat} {ff : Bool} (h : encode i = packWord op rnd nlen ff tsz)
    (hop : op % 2 ^ 8 = opcode i)
    (hrnd : (∀ r f, i ≠ .perm r f) → (∀ r n, i ≠ .setup r n) → (∀ r n, i ≠ .oneshot r n) → rnd = 0)
    (htsz : (∀ t, i ≠ .aeadInit t) → tsz = 0) (hff : (∀ r f, i ≠ .perm r f) → ff = false) : Statement i := by
  unfold Statement
  rw [h, fieldOp_packWord, fieldRnd_packWord, fieldTsz_packWord, fieldFf_packWord]
  obtain ⟨h1, h2⟩ := reserved_packWord op rnd nlen ff tsz
  exact ⟨hop, h1, h2, fun a b c => by simp [hrnd a b c], fun a => by simp [htsz a], hff⟩

theorem nop : Statement .nop := of_packWord rfl rfl (fun _ _ _ => rfl) (fun _ => rfl) (fun _ => rfl)

theorem perm (rnd : Nat) (ff : Bool) : Statement (.perm rnd ff) :=
  of_packWord rfl rfl (fun h => absurd rfl (h rnd ff)) (fun _ => rfl) (fun h => absurd rfl (h rnd ff))

theorem block : Statement .block := of_packWord rfl rfl (fun _ _ _ => rfl) (fun _ => rfl) (fun _ => rfl)

theorem setup (rnd nlen : Nat) : Statement (.setup rnd nlen) :=
  of_packWord rfl rfl (fun _ h => absurd rfl (h rnd nlen)) (fun _ => rfl) (fun _ => rfl)

theorem hchacha : Statement .hchacha := of_packWord rfl rfl (fun _ _ _ => rfl) (fun _ => rfl) (fun _ => rfl)

theorem crypt : Statement .crypt := of_packWord rfl rfl (fun _ _ _ => rfl) (fun _ => rfl) (fun _ => rfl)

theorem setctr : Statement .setctr := of_packWord rfl rfl (fun _ _ _ => rfl) (fun _ => rfl) (fun _ => rfl)

theorem setnonce (nlen : Nat) : Statement (.setnonce nlen) :=
  of_packWord rfl rfl (fun _ _ _ => rfl) (fun _ => rfl) (fun _ => rfl)

theorem oneshot (rnd nlen : Nat) : Statement (.oneshot rnd nlen) :=
  of_packWord rfl rfl (fun _ _ h => absurd rfl (h rnd nlen)) (fun _ => rfl) (fun _ => rfl)

theorem aeadInit (tsz : Nat) : Statement (.aeadInit tsz) :=
  of_packWord rfl rfl (fun _ _ _ => rfl) (fun h => absurd rfl (h tsz)) (fun _ => rfl)

theorem aeadSeal (nlen : Nat) : Statement (.aeadSeal nlen) :=
  of_packWord rfl rfl (fun _ _ _ => rfl) (fun _ => rfl) (fun _ => rfl)

theorem aeadOpen (nlen : Nat) : Statement (.aeadOpen nlen) :=
  of_packWord rfl rfl (fun _ _ _ => rfl) (fun _ => rfl) (fun _ => rfl)

end Sys2Proof.Laws.EncodedOpcode
end

