-- ==== Sys2Proof/Tests/Slice0.lean ====
section
/-! SUPPORT. Tests of the model: ill-formed commands are refused, words written bit by bit from the encoding
decode as they should, one or two single steps per command with the results of 95_test_vectors.md, and for
every obligation with hypotheses a concrete case that meets them. -/

open Sys2Proof Sys2Proof.Machine Host

namespace Sys2Proof.Tests

set_option Elab.async false

/-! ### Well-formedness: each check refuses a term -/

theorem test_illFormed_perm_rnd : (Instr.perm 256 true).wellFormed = false := by decide
theorem test_illFormed_setup_rnd : (Instr.setup 256 12).wellFormed = false := by decide
theorem test_illFormed_setup_nlen : (Instr.setup 20 32).wellFormed = false := by decide
theorem test_illFormed_setnonce_nlen : (Instr.setnonce 32).wellFormed = false := by decide
theorem test_illFormed_oneshot_rnd : (Instr.oneshot 256 12).wellFormed = false := by decide
theorem test_illFormed_oneshot_nlen : (Instr.oneshot 20 32).wellFormed = false := by decide
theorem test_illFormed_aeadInit_tsz : (Instr.aeadInit 32).wellFormed = false := by decide
theorem test_illFormed_seal_nlen : (Instr.aeadSeal 32).wellFormed = false := by decide
theorem test_illFormed_open_nlen : (Instr.aeadOpen 32).wellFormed = false := by decide
theorem test_wellFormed_illegalFields : (Instr.oneshot 255 31).wellFormed = true := by decide

/-! ### Decoding: each word is written out from the layout of rule R111, most significant bit first: three
reserved bits, TSZ (5), two reserved bits, FF, NLEN (5), RND (8), OP (8) -/

theorem test_decode_nop : decode 0b00000000000000000000000000000000#32 = .ok .nop := rfl
theorem test_decode_perm : decode 0b00000000001000000000110000000001#32 = .ok (.perm 12 true) := rfl
theorem test_decode_perm_bare : decode 0b00000000000000001111111100000001#32 = .ok (.perm 255 false) := rfl
theorem test_decode_block : decode 0b00000000000000000000000000000010#32 = .ok .block := rfl
theorem test_decode_setup : decode 0b00000000000110000000100000000011#32 = .ok (.setup 8 24) := rfl
theorem test_decode_hchacha : decode 0b00000000000000000000000000000100#32 = .ok .hchacha := rfl
theorem test_decode_crypt : decode 0b00000000000000000000000000000101#32 = .ok .crypt := rfl
theorem test_decode_setctr : decode 0b00000000000000000000000000000110#32 = .ok .setctr := rfl
theorem test_decode_setnonce : decode 0b00000000000010000000000000000111#32 = .ok (.setnonce 8) := rfl
theorem test_decode_oneshot : decode 0b00000000000011000001010000001000#32 = .ok (.oneshot 20 12) := rfl
theorem test_decode_aeadInit : decode 0b00010000000000000000000000001001#32 = .ok (.aeadInit 16) := rfl
theorem test_decode_seal : decode 0b00000000000011000000000000001010#32 = .ok (.aeadSeal 12) := rfl
theorem test_decode_open : decode 0b00000000000011000000000000001011#32 = .ok (.aeadOpen 12) := rfl

/-- Reserved bits 22, 23 and 31, an unused field, and the opcodes 0x0C and 0xFF (R114). -/
theorem test_decode_illegal :
    decode 0b00000000010000000000000000000010#32 = .error .unusedBits ∧
    decode 0b00000000100000000001010000000001#32 = .error .unusedBits ∧
    decode 0b10010000000000000000000000001001#32 = .error .unusedBits ∧
    decode 0b00000000001011000001010000000011#32 = .error .unusedBits ∧
    decode 0b00000000000000000000000000001100#32 = .error .reservedOpcode ∧
    decode 0b00000000000000000000000011111111#32 = .error .reservedOpcode := ⟨rfl, rfl, rfl, rfl, rfl, rfl⟩

/-- The host's numbering: the word itself, 32 bits; a longer word is no command. -/
theorem test_decodeTableWord :
    decodeTableWord 32 0x00081403 = some (.setup 20 8) ∧ decodeTableWord 32 0x0000000C = none ∧
    decodeTableWord 40 0x0100000002 = none := ⟨rfl, rfl, rfl⟩

/-! ### The states of the tests -/

/-- The state an outcome leaves. -/
def after (o : Out) : State :=
  match o with
  | .next t => t
  | .fault _ => State.reset
  | .refused _ => State.reset

/-- A pair holding a small number. -/
def small (n : Nat) : Pair := ⟨BitVec.ofNat 32 n, 0⟩

/-- The key 00 01 … 1f (V10). -/
def key00 : Vector Word 8 :=
  #v[0x03020100, 0x07060504, 0x0b0a0908, 0x0f0e0d0c, 0x13121110, 0x17161514, 0x1b1a1918, 0x1f1e1d1c]

/-- The 24 nonce bytes of V13; the first twelve are the nonce of V10. -/
def nonce13 : Vector Word 6 := #v[0x09000000, 0x4a000000, 0x00000000, 0x27594131, 0x03020100, 0x07060504]

/-- The words of ST, and SIN in the vectors V3: constants, key 00 … 1f, counter, nonce. -/
def words (c n0 n1 n2 : Word) : Words16 :=
  #v[0x61707865, 0x3320646e, 0x79622d32, 0x6b206574,
    0x03020100, 0x07060504, 0x0b0a0908, 0x0f0e0d0c, 0x13121110, 0x17161514, 0x1b1a1918, 0x1f1e1d1c,
    c, n0, n1, n2]

/-- ST after `setup` with key and nonce zero. -/
def zeroKeyWords : Words16 :=
  #v[0x61707865, 0x3320646e, 0x79622d32, 0x6b206574, 0, 0, 0, 0, 0, 0, 0, 0, 0, 0, 0, 0]

/-- A block with an engine built from key and nonce zero, in a variant. -/
def configured (nv : Nat) : State :=
  { State.reset with eng := { Engine.zero with s := zeroKeyWords, r := 20, nv := nv }, ev := true }

/-- Operands: two bytes at 0, room for three at 0x40. -/
def withOperands (s : State) : State :=
  { s with
    src := small 0, len := small 2, dst := small 0x40, dlen := small 3
    mbuf := [(0, 0x61), (1, 0x62), (2, 0x63)] }

/-- An AEAD context with the zero key and a tag of one byte, and operands. -/
def sealable : State := withOperands { State.reset with av := true, ts := 1 }

/-! ### Single steps of commands, with the results of 95_test_vectors.md -/

/-- R275, V54: with IE = 1, NOP gives STATUS 0x00000002 and raises the interrupt. -/
theorem test_nop :
    (after (exec .nop { State.reset with ie := true })).statusWord = 0x00000002 ∧
    (after (exec .nop { State.reset with ie := true })).irq = true := by decide +kernel

/-- V3: 20 rounds with feedforward on the RFC state. -/
theorem test_perm :
    (after (exec (.perm 20 true)
      { State.reset with sin := words 1 0x09000000 0x4a000000 0 })).blk =
    #v[0xe4e7f110, 0x15593bd1, 0x1fdd0f50, 0xc47120a3, 0xc7f4d1c7, 0x0368c033, 0x9aaa2204, 0x4e6cd4c3,
      0x466482d2, 0x09aa9f07, 0x05d7c214, 0xa2028bd9, 0xd19c12b5, 0xb94e16de, 0xe883d0cb, 0x4e3c50a2] := by
  decide +kernel

/-- V3: the bare permutation, and V60: a bad round count. -/
theorem test_perm_bare :
    (after (exec (.perm 20 false)
      { State.reset with sin := words 1 0x09000000 0x4a000000 0 })).blk[0] = 0x837778ab ∧
    (after (exec (.perm 7 false) State.reset)).statusWord = 0x0000030A ∧
    (after (exec (.perm 7 false) State.reset)).errcmd = 0x00000701 := by decide +kernel

/-- V1: the zero-key block, and the counter after it. -/
theorem test_block :
    (after (exec .block (configured 12))).blk =
    #v[0xade0b876, 0x903df1a0, 0xe56a5d40, 0x28bd8653, 0xb819d2bd, 0x1aed8da0, 0xccef36a8, 0xc70d778b,
      0x7c5941da, 0x8d485751, 0x3fe02477, 0x374ad8b8, 0xf4b8436a, 0x1ca11815, 0x69b687c3, 0x8665eeb2] ∧
    (after (exec .block (configured 12))).eng.s[12] = 1 := by decide +kernel

/-- V8, V9: at counter 0xFFFFFFFF the 12-byte variant wraps, the 8-byte variant carries. -/
theorem test_inc :
    inc (words 0xFFFFFFFF 0 5 6) 12 = words 0 0 5 6 ∧ inc (words 0xFFFFFFFF 0 5 6) 8 = words 0 1 5 6 ∧
    inc (words 0xFFFFFFFF 0xFFFFFFFF 5 6) 24 = words 0 0 5 6 := by decide +kernel

/-- V10, V12: the words of ST for the 12-byte and the 8-byte nonce. -/
theorem test_setup :
    (after (exec (.setup 20 12) { State.reset with key := key00, nonce := nonce13 })).eng.s
      = words 0 0x09000000 0x4a000000 0 ∧
    (after (exec (.setup 20 8)
      { State.reset with key := key00, nonce := nonce13.set 0 0x03020100 |>.set 1 0x07060504 })).eng.s
      = words 0 0 0x03020100 0x07060504 := by decide +kernel

/-- V13: the 24-byte nonce, with the subkey in words 4 to 11. -/
theorem test_setup_extended :
    (after (exec (.setup 20 24) { State.reset with key := key00, nonce := nonce13 })).eng.s =
    #v[0x61707865, 0x3320646e, 0x79622d32, 0x6b206574,
      0x423b4182, 0xfe7bb227, 0x50420ed3, 0x737d878a, 0xd5e4f9a0, 0x53a8748a, 0x13c42ec1, 0xdcecd326,
      0, 0, 0x03020100, 0x07060504] := by decide +kernel

/-- V20: the subkey. -/
theorem test_hchacha :
    (after (exec .hchacha { State.reset with key := key00, nonce := nonce13 })).subkey =
    #v[0x423b4182, 0xfe7bb227, 0x50420ed3, 0x737d878a, 0xd5e4f9a0, 0x53a8748a, 0x13c42ec1, 0xdcecd326] := by
  decide +kernel

/-- V38: three zero bytes give `76b8e0`, and leave OFF = 3 and the counter at 1. -/
theorem test_crypt :
    let t := after (exec .crypt { withOperands (configured 12) with
      len := small 3, mbuf := [(0, 0), (1, 0), (2, 0)] })
    t.memRead 0x40 3 = [0x76, 0xb8, 0xe0] ∧ t.eng.off = 3 ∧ t.eng.s[12] = 1 := by decide +kernel

/-- V37: the partial overlap, and the length bound before the range. -/
theorem test_crypt_errors :
    (after (exec .crypt { configured 12 with
      dst := small 8, len := small 16, dlen := small 16 })).statusWord = 0x00010A0A ∧
    (after (exec .crypt { configured 12 with
      len := ⟨1, 0x40⟩, dlen := ⟨1, 0x40⟩ })).statusWord = 0x0001070A := by decide +kernel

/-- V32: CTR = 2^32 fits the 64-bit counter, and the buffer is emptied. -/
theorem test_setctr :
    let t := after (exec .setctr { configured 8 with
      ctr := ⟨0, 1⟩, eng := { (configured 8).eng with off := 17 } })
    t.eng.s[12] = 0 ∧ t.eng.s[13] = 1 ∧ t.eng.off = 0 := by decide +kernel

/-- V32: CTR = 2^32 does not fit the 32-bit counter. -/
theorem test_setctr_counter :
    (after (exec .setctr { configured 12 with ctr := ⟨0, 1⟩ })).statusWord = 0x0001060A ∧
    (after (exec .setctr { configured 12 with ctr := ⟨0, 1⟩ })).errcmd = 0x00000006 := by decide +kernel

/-- V33: the nonce words change, the counter stays. -/
theorem test_setnonce :
    let t := after (exec (.setnonce 12) { configured 12 with
      nonce := nonce13, eng := { (configured 12).eng with s := zeroKeyWords.set 12 7 } })
    t.eng.s[12] = 7 ∧ t.eng.s[13] = 0x09000000 ∧ t.eng.s[14] = 0x4a000000 ∧ t.eng.s[15] = 0 := by
  decide +kernel

/-- V33: a nonce of another length, and the 24-byte variant. -/
theorem test_setnonce_errors :
    (after (exec (.setnonce 8) (configured 12))).statusWord = 0x0001040A ∧
    (after (exec (.setnonce 24) (configured 24))).statusWord = 0x0001040A := by decide +kernel

/-- V39: "hello" (the first five bytes of the vector) with 8 rounds. -/
theorem test_oneshot :
    (after (exec (.oneshot 8 12) { State.reset with
      key := key00, len := small 5, dst := small 0x40, dlen := small 5
      mbuf := [(0, 0x68), (1, 0x65), (2, 0x6c), (3, 0x6c), (4, 0x6f)] })).memRead 0x40 5
    = [0x28, 0x70, 0xde, 0xe3, 0x01] := by decide +kernel

/-- V61: the lowest code is reported; COUNTER and LENGTH do not apply to the 8-byte variant. -/
theorem test_oneshot_priority :
    (after (exec (.oneshot 7 9) { State.reset with ctr := ⟨0, 1⟩ })).err = .rounds ∧
    (after (exec (.oneshot 20 8) { State.reset with ctr := ⟨0, 1⟩, len := ⟨1, 0x40⟩ })).err = .dstShort := by
  decide +kernel

/-- R236: the configuration register after AEAD_INIT, and the tag size 0. -/
theorem test_aeadInit :
    (after (exec (.aeadInit 16) State.reset)).aeadcfgWord = 0x00000C10 ∧
    (after (exec (.aeadInit 0) State.reset)).statusWord = 0x0000050A ∧
    (after (exec (.aeadInit 0) State.reset)).errcmd = 0x00000009 := by decide +kernel

/-- V44: SEAL of nothing, without additional data: the tag alone. -/
theorem test_seal_empty :
    (after (exec (.aeadSeal 12) { State.reset with
      ak := Vector.ofFn fun i => BitVec.ofNat 8 (0x80 + i.val), ts := 16, av := true
      nonce := #v[0x00000007, 0x43424140, 0x47464544, 0, 0, 0], dlen := small 16 })).memRead 0 16
    = [0xa0, 0x78, 0x4d, 0x7a, 0x47, 0x16, 0xf3, 0xfe, 0xb4, 0xf6, 0x4e, 0x7f, 0x4b, 0x39, 0xbf, 0x04] := by
  decide +kernel

/-- V46: SEAL without a context, and with a nonce length of 8. -/
theorem test_seal_errors :
    (after (exec (.aeadSeal 12) State.reset)).statusWord = 0x0000020A ∧
    (after (exec (.aeadSeal 8) { State.reset with av := true, ts := 16 })).statusWord = 0x0002040A := by
  decide +kernel

/-- V44: the tag of V44 with nothing before it is accepted. -/
def taggedEmpty : State :=
  { State.reset with
    ak := Vector.ofFn fun i => BitVec.ofNat 8 (0x80 + i.val), ts := 16, av := true, authFail := true
    nonce := #v[0x00000007, 0x43424140, 0x47464544, 0, 0, 0], len := small 16
    mbuf := [(0, 0xa0), (1, 0x78), (2, 0x4d), (3, 0x7a), (4, 0x47), (5, 0x16), (6, 0xf3), (7, 0xfe),
      (8, 0xb4), (9, 0xf6), (10, 0x4e), (11, 0x7f), (12, 0x4b), (13, 0x39), (14, 0xbf), (15, 0x04)] }

theorem test_open_accepts :
    (after (exec (.aeadOpen 12) taggedEmpty)).statusWord = 0x00020002 := by decide +kernel

/-- V42, V45: a flipped bit, and a message shorter than the tag. -/
theorem test_open_rejects :
    (after (exec (.aeadOpen 12) { taggedEmpty with
      mbuf := Memory.set taggedEmpty.mbuf 15 0x05 })).statusWord = 0x00020006 ∧
    (after (exec (.aeadOpen 12) { taggedEmpty with len := small 15 })).statusWord = 0x00020006 := by
  decide +kernel

/-- V47: the default Poly1305. -/
theorem test_poly1305 :
    (poly1305Reference
      #v[0x85, 0xd6, 0xbe, 0x78, 0x57, 0x55, 0x6d, 0x33, 0x7f, 0x44, 0x52, 0xfe, 0x42, 0xd5, 0x06, 0xa8,
        0x01, 0x03, 0x80, 0x8a, 0xfb, 0x0d, 0xb2, 0xfd, 0x4a, 0xbf, 0xf6, 0xaf, 0x41, 0x49, 0xf5, 0x1b]
      [0x43, 0x72, 0x79, 0x70, 0x74, 0x6f, 0x67, 0x72, 0x61, 0x70, 0x68, 0x69, 0x63, 0x20, 0x46, 0x6f, 0x72,
        0x75, 0x6d, 0x20, 0x52, 0x65, 0x73, 0x65, 0x61, 0x72, 0x63, 0x68, 0x20, 0x47, 0x72, 0x6f, 0x75, 0x70])
    = #v[0xa8, 0x06, 0x1d, 0xc1, 0x30, 0x51, 0x36, 0xc6, 0xc2, 0x2b, 0x8b, 0xaf, 0x0c, 0x01, 0x27, 0xa9] := by
  decide +kernel

/-- V2: the quarter-round. -/
theorem test_quarterRound :
    quarterRound ⟨0x11111111, 0x01020304, 0x9b8d6f43, 0x01234567⟩
      = ⟨0xea2a92f4, 0xcb1cf8ce, 0x4581472e, 0x5881c4bb⟩ := by decide +kernel

/-! ### Single host accesses, with the results of 95_test_vectors.md -/

/-- V51: the lane and the bit that clear DONE. -/
theorem test_status_write :
    (State.hostWrite { State.reset with done := true } 0x008 .word 0x00000002 0b0001#4).map (·.done) = some false ∧
    (State.hostWrite { State.reset with done := true } 0x008 .word 0x00000002 0b1110#4).map (·.done) = some true ∧
    (State.hostWrite { State.reset with done := true } 0x008 .word 0xFFFFFFFD 0b1111#4).map (·.done)
      = some true := by decide +kernel

/-- V52: the five errors, and the write of a read-only register that is none. -/
theorem test_register_errors :
    State.reset.hostRead 0x009 .byte = none ∧ State.reset.hostRead 0x008 .half = none ∧
    State.reset.hostRead 0x01C .word = none ∧
    State.reset.hostWrite 0x040 .word 0x12345678 0b0011#4 = none ∧
    State.reset.hostWrite 0x004 .word 0x00000002 0b0111#4 = none ∧
    State.reset.hostWrite 0x000 .word 0 0b1111#4 = some State.reset := by decide +kernel

/-- V53: a word in MBUF read back in other widths, and the edges of the window. -/
theorem test_mbuf_access :
    let t := State.reset.writeLanes 0 0x44332211 0b1111#4 4 0
    State.reset.hostWrite 0x10000 .word 0x44332211 0b1111#4 = some t ∧
    t.hostRead 0x10003 .byte = some 0x44 ∧ t.hostRead 0x10002 .half = some 0x4433 ∧
    t.hostRead 0x10001 .half = none ∧
    (State.reset.hostWrite 0x1FFFE .word 0 0b1111#4).isNone = true ∧
    (State.reset.hostWrite 0x1FFFC .word 0 0b1111#4).isSome = true ∧
    State.reset.hostWrite 0x10000 .byte 0xFF 0b0000#4 = some State.reset := by decide +kernel

/-- V54: CTRL keeps only bit 0. -/
theorem test_ctrl :
    (State.reset.hostWrite 0x00C .word 0xFFFFFFFF 0b1111#4).map (·.hostRead 0x00C .word) = some (some 1) := by
  decide +kernel

/-- R95, R274: the word placed for the next step runs as the first command after reset. -/
theorem test_withFetchWord :
    (after (step (State.reset.withFetchWord 32 0x00000000))).statusWord = 0x00000002 ∧
    (after (step (State.reset.withFetchWord 32 0x0000000C))).errcmd = 0x0000000C := by decide +kernel

/-! ### Witnesses: for each obligation with hypotheses, a case that meets them all -/

theorem witness_DecodeOfEncode :
    (Instr.perm 0 true).wellFormed = true ∧ (Instr.setup 255 31).wellFormed = true ∧
    (Instr.aeadInit 31).wellFormed = true ∧ Instr.nop.wellFormed = true := by decide

theorem witness_EncodeOfDecode :
    decode 0x1F000009 = .ok (.aeadInit 31) ∧ decode 0x001F00FF = .error .reservedOpcode ∧
    decode 0x001FFF08 = .ok (.oneshot 255 31) := ⟨rfl, rfl, rfl⟩

/-- A word that matches a row, and one that matches none. -/
theorem witness_DecodesExactlyTheTable :
    ((0x00000001, 0xFFDF00FF, .perm 20 true) : Word × Word × Instr) ∈ tableRows 0x00201401 ∧
    (0x00201401 : Word) &&& 0xFFDF00FF = 0x00000001 ∧
    ∀ r ∈ tableRows 0x00400002, (0x00400002 : Word) &&& r.2.1 ≠ r.1 := by decide

/-- A command word is captured, and a read of KEY0 is held or comes next. -/
def busyWith (w : Word) (held : Option HostTxn) (host : List HostEvent) : State :=
  { State.reset with running := some w, held := held, host := host }

theorem witness_StepRunsTheDecodedCommand :
    (busyWith 2 none []).running = some 2 ∧ decode 2 = .ok .block ∧
    (busyWith 2 none []).host = [] ∧ (busyWith 2 none [.wait, .reset]).host = .wait :: [.reset] ∧
    (busyWith 2 (some (.read 0x020 .word)) [.txn (.read 0x008 .word)]).held = some (.read 0x020 .word) ∧
    (busyWith 2 (some (.read 0x020 .word)) [.txn (.read 0x008 .word)]).host
      = .txn (.read 0x008 .word) :: [] := ⟨rfl, rfl, rfl, rfl, rfl, rfl⟩

theorem witness_IllegalWordIsFatal :
    (busyWith 0xFF none []).running = some 0xFF ∧ decode 0xFF = .error .reservedOpcode ∧
    decode 0x00400002 = .error .unusedBits ∧ (busyWith 0xFF none []).fatal = false ∧
    (busyWith 0xFF none []).host = [] ∧ (busyWith 0xFF none [.wait, .reset]).host = .wait :: [.reset] ∧
    (busyWith 0xFF (some (.read 0x010 .word)) [.txn (.read 0x008 .word)]).held = some (.read 0x010 .word) ∧
    (busyWith 0xFF (some (.read 0x010 .word)) [.txn (.read 0x008 .word)]).host
      = .txn (.read 0x008 .word) :: [] := ⟨rfl, rfl, rfl, rfl, rfl, rfl, rfl, rfl⟩

/-- Cause c holds of the command, and none with a lower code. -/
def lowest (s : State) (i : Instr) (c : ErrCode) : Prop :=
  s.fatal = false ∧ s.Fails i c ∧ ∀ d, s.Fails i d → c.code.toNat ≤ d.code.toNat

theorem witness_FatalReportsTheLowestCode_contexts :
    lowest State.reset .block .notConfigured ∧ lowest State.reset (.aeadOpen 8) .notConfigured ∧
    lowest State.reset (.setup 7 9) .rounds ∧ lowest State.reset (.setup 8 9) .nonceSize ∧
    lowest (configured 24) (.setnonce 24) .nonceSize ∧ lowest State.reset (.aeadInit 0) .tagSize ∧
    lowest State.reset (.aeadInit 17) .tagSize := by
  refine ⟨?_, ?_, ?_, ?_, ?_, ?_, ?_⟩ <;>
  exact ⟨rfl, by simp only [State.Fails]; decide +kernel,
    fun d => by cases d <;> simp only [State.Fails] <;> decide +kernel⟩

theorem witness_FatalReportsTheLowestCode_operands :
    lowest { configured 12 with ctr := ⟨0, 1⟩ } .setctr .counter ∧
    lowest { configured 12 with len := ⟨1, 0x40⟩ } .crypt .length ∧
    lowest { sealable with len := ⟨0xFFFFFFC1, 0x3F⟩ } (.aeadSeal 12) .length ∧
    lowest { sealable with dlen := small 2 } (.aeadSeal 12) .dstShort ∧
    lowest { State.reset with src := small 65536, len := small 1, dlen := small 1 } (.oneshot 20 12) .range ∧
    lowest { State.reset with len := small 2, dst := small 1, dlen := small 2 } (.oneshot 20 12) .overlap ∧
    lowest { sealable with aad := small 0x42, aadlen := small 1 } (.aeadSeal 12) .overlap := by
  refine ⟨?_, ?_, ?_, ?_, ?_, ?_, ?_⟩ <;>
  exact ⟨rfl, by simp only [State.Fails]; decide +kernel,
    fun d => by cases d <;> simp only [State.Fails] <;> decide +kernel⟩

/-- CRYPT, ONESHOT (also in place), SEAL, OPEN and a command without operands that meet no cause. -/
theorem witness_PassingCommandCompletes :
    (withOperands (configured 12)).Passes .crypt ∧ (withOperands State.reset).Passes (.oneshot 20 24) ∧
    { withOperands State.reset with dst := small 0 }.Passes (.oneshot 8 12) ∧
    sealable.Passes (.aeadSeal 12) ∧ sealable.Passes (.aeadOpen 12) ∧ State.reset.Passes .hchacha ∧
    State.reset.fatal = false ∧ sealable.fatal = false := by
  refine ⟨?_, ?_, ?_, ?_, ?_, ?_, rfl, rfl⟩ <;>
  exact fun c => by cases c <;> simp only [State.Fails] <;> decide +kernel

/-- A block in the fatal state, with events to come. -/
def broken (host : List HostEvent) : State :=
  { State.reset with fatal := true, err := .rounds, errcmd := 0x00000701, host := host }

theorem witness_CommandsAreDroppedWhileFatal :
    (broken []).fatal = true ∧ (0x00C : Nat) ≠ 0x004 ∧ (0x00C : Nat) ≠ 0x008 := by decide

theorem witness_OnlyResetLeavesTheFatalState :
    (broken [.reset]).fatal = true ∧ (broken [.reset]).running = none ∧
    (∃ t, step (broken [.reset]) = .next t) ∧
    ∃ t, step (broken [.txn (.write 0x004 .word 0 0b1111#4)]) = .next t :=
  ⟨rfl, rfl, ⟨_, rfl⟩, ⟨_, rfl⟩⟩

theorem witness_PollingInTheFatalStateNeverEnds :
    (broken (List.replicate 3 (.txn (.read 0x008 .word)))).fatal = true ∧
    (broken (List.replicate 3 (.txn (.read 0x008 .word)))).done = false ∧
    (broken (List.replicate 3 (.txn (.read 0x008 .word)))).running = none ∧
    (broken (List.replicate 3 (.txn (.read 0x008 .word)))).held = none ∧
    (broken (List.replicate 3 (.txn (.read 0x008 .word)))).host
      = List.replicate (2 + 1) (.txn (.read 0x008 .word)) := ⟨rfl, rfl, rfl, rfl, rfl⟩

theorem witness_QuarterRoundOfTheRule :
    ([3, 4, 9, 14] : List (Fin 16)).Nodup ∧ (15 : Fin 16) ∉ [3, 4, 9, 14] := by decide

theorem witness_CounterIncrement : (12 : Nat) = 12 ∧ (8 : Nat) ≠ 12 ∧ (15 : Nat) ≠ 12 ∧ (15 : Nat) ≠ 13 := by decide

theorem witness_RoundsAreColumnsAndDiagonals : ([0, 5, 10, 15, 1, 6, 11, 12] : List (Fin 16)).Nodup := by decide

theorem witness_PermOfZerosIsZero :
    legalRounds 8 ∧ legalRounds 20 ∧ State.reset.fatal = false ∧ State.reset.sin = .replicate 16 0 :=
  ⟨.inl rfl, .inr (.inr rfl), rfl, rfl⟩

theorem witness_NopResult : (broken []).fatal = true ∧ State.reset.fatal = false := ⟨rfl, rfl⟩

theorem witness_PermResult :
    legalRounds 12 ∧ { State.reset with sin := words 1 2 3 4 }.fatal = false := ⟨.inr (.inl rfl), rfl⟩

theorem witness_BlockResult :
    (configured 12).ev = true ∧ (configured 8).ev = true ∧ (configured 12).fatal = false ∧
    (configured 12).eng.nv = 12 ∧ (configured 8).eng.nv ≠ 12 := ⟨rfl, rfl, rfl, rfl, by decide⟩

/-- The three nonce lengths: each clause of the statement applies to one. -/
theorem witness_SetupResult :
    legalRounds 8 ∧ legalNonce 8 ∧ legalNonce 12 ∧ legalNonce 24 ∧ State.reset.fatal = false := by decide

theorem witness_HchachaResult : { State.reset with key := key00, nonce := nonce13 }.fatal = false := rfl

theorem witness_SetupUsesTheHchachaSubkey :
    legalRounds 20 ∧ { State.reset with key := key00, nonce := nonce13 }.fatal = false :=
  ⟨.inr (.inr rfl), rfl⟩

/-- An engine at the last counter, with an empty buffer, and strings of more than one block and of whole blocks; one
with three bytes used, and strings its buffer meets, empties, and does not meet. -/
theorem witness_KeystreamPosition :
    (Engine.fresh (words 0xFFFFFFFF 1 2 3) 20 12).off = 0 ∧ 64 < (zeros 65).length ∧
    64 < (xks (Engine.fresh (words 0xFFFFFFFF 1 2 3) 20 12) (zeros 65)).1.length ∧
    (zeros 65).length % 64 ≠ 0 ∧ (zeros 128).length % 64 = 0 ∧
    0 < { Engine.fresh (words 1 1 2 3) 20 12 with off := 3 }.off.val ∧
    (zeros 2).length ≤ 64 - { Engine.fresh (words 1 1 2 3) 20 12 with off := 3 }.off.val ∧
    (zeros 61).length ≤ 64 - { Engine.fresh (words 1 1 2 3) 20 12 with off := 3 }.off.val ∧
    64 - { Engine.fresh (words 1 1 2 3) 20 12 with off := 3 }.off.val < (zeros 64).length := by decide +kernel

theorem witness_CryptResult :
    (withOperands (configured 12)).fatal = false ∧ (withOperands (configured 12)).Passes .crypt ∧
    0 < (withOperands (configured 12)).len.val :=
  ⟨rfl, fun c => by cases c <;> simp only [State.Fails] <;> decide +kernel, by decide⟩

theorem witness_EmptyCryptChangesNothing :
    { configured 12 with src := ⟨0, 256⟩, dst := ⟨3, 256⟩ }.fatal = false ∧
    { configured 12 with src := ⟨0, 256⟩, dst := ⟨3, 256⟩ }.ev = true ∧
    { configured 12 with src := ⟨0, 256⟩, dst := ⟨3, 256⟩ }.len.val = 0 ∧
    { configured 12 with src := ⟨0, 256⟩, dst := ⟨3, 256⟩ }.dlen.val = 0 := by decide

/-- The 12-byte variant with a counter that fits, and the 8-byte variant with one that needs both words. -/
theorem witness_SetctrResult :
    { configured 12 with ctr := small 5 }.fatal = false ∧ { configured 12 with ctr := small 5 }.ev = true ∧
    ({ configured 12 with ctr := small 5 }.eng.nv = 12 → { configured 12 with ctr := small 5 }.ctr.hi = 0) ∧
    { configured 8 with ctr := ⟨0, 1⟩ }.ev = true ∧
    ({ configured 8 with ctr := ⟨0, 1⟩ }.eng.nv = 12 → { configured 8 with ctr := ⟨0, 1⟩ }.ctr.hi = 0) :=
  ⟨rfl, rfl, fun _ => rfl, rfl, fun h => absurd h (by decide)⟩

theorem witness_SetnonceResult :
    (configured 8).fatal = false ∧ (configured 8).ev = true ∧ (configured 8).eng.nv = 8 ∧
    (configured 12).ev = true ∧ (configured 12).eng.nv = 12 := ⟨rfl, rfl, rfl, rfl, rfl⟩

theorem witness_OneshotResult :
    (withOperands State.reset).fatal = false ∧
    { withOperands State.reset with ctr := ⟨0xFFFFFFFF, 0⟩ }.Passes (.oneshot 12 12) ∧
    { withOperands State.reset with ctr := ⟨0, 1⟩ }.Passes (.oneshot 12 8) := by
  refine ⟨rfl, ?_, ?_⟩ <;> exact fun c => by cases c <;> simp only [State.Fails] <;> decide +kernel

theorem witness_OneshotTwiceRestores :
    { withOperands State.reset with dst := small 0 }.fatal = false ∧
    { withOperands State.reset with dst := small 0 }.Passes (.oneshot 20 12) ∧
    { withOperands State.reset with dst := small 0 }.dst
      = { withOperands State.reset with dst := small 0 }.src :=
  ⟨rfl, fun c => by cases c <;> simp only [State.Fails] <;> decide +kernel, rfl⟩

theorem witness_SetctrThenCryptIsOneshot :
    { withOperands State.reset with ctr := small 1 }.fatal = false ∧
    { withOperands State.reset with ctr := small 1 }.Passes (.oneshot 20 24) :=
  ⟨rfl, fun c => by cases c <;> simp only [State.Fails] <;> decide +kernel⟩

theorem witness_AeadInitResult :
    { State.reset with key := key00 }.fatal = false ∧ 1 ≤ 1 ∧ (1 : Nat) ≤ 16 ∧ 1 ≤ 16 ∧ (16 : Nat) ≤ 16 := by
  decide

theorem witness_TagComparisonIsEquality :
    1 ≤ [0x0a#8, 0x0b#8].length ∧ 1 ≤ [0x0a#8, 0x0c#8].length ∧ 2 ≤ [0x0a#8, 0x0b#8].length := by decide

theorem witness_SealResult :
    sealable.fatal = false ∧ sealable.ts ≤ 16 ∧ sealable.Passes (.aeadSeal 12) ∧ 0 < sealable.len.val ∧
    0 < sealable.ts :=
  ⟨rfl, by decide, fun c => by cases c <;> simp only [State.Fails] <;> decide +kernel, by decide, by decide⟩

/-- What SEAL leaves of `sealable`, set up for OPEN into another place. -/
def sealedForOpen : State :=
  { after (exec (.aeadSeal 12) sealable) with src := small 0x40, len := small 3, dst := small 0x80 }

theorem witness_OpenAcceptsTheRightTag :
    sealedForOpen.fatal = false ∧ sealedForOpen.ts ≤ 16 ∧ sealedForOpen.Passes (.aeadOpen 12) ∧
    sealedForOpen.ts ≤ sealedForOpen.len.val ∧ 0 < sealedForOpen.len.val - sealedForOpen.ts ∧
    ∀ j (h : j < 16), j < sealedForOpen.ts →
      sealedForOpen.mbufByte (sealedForOpen.src.val + (sealedForOpen.len.val - sealedForOpen.ts) + j)
        = (sealedForOpen.aeadMac
            (sealedForOpen.memRead sealedForOpen.src.val (sealedForOpen.len.val - sealedForOpen.ts)))[j] :=
  ⟨by decide +kernel, by decide +kernel,
    fun c => by cases c <;> simp only [State.Fails] <;> decide +kernel,
    by decide +kernel, by decide +kernel, by decide +kernel⟩

/-- A message one byte short of the tag, and the sealed message with its tag changed. -/
theorem witness_OpenRejectsAnyOtherMessage :
    ({ sealedForOpen with len := small 0 }.fatal = false ∧ { sealedForOpen with len := small 0 }.ts ≤ 16 ∧
      { sealedForOpen with len := small 0 }.Passes (.aeadOpen 12) ∧
      { sealedForOpen with len := small 0 }.len.val < { sealedForOpen with len := small 0 }.ts) ∧
    ({ sealedForOpen with mbuf := [(0x40, 0), (0x41, 0), (0x42, 0)] }.Passes (.aeadOpen 12) ∧
      ∃ j, ∃ h : j < 16, j < sealedForOpen.ts ∧
        State.mbufByte { sealedForOpen with mbuf := [(0x40, 0), (0x41, 0), (0x42, 0)] } (0x40 + 2 + j) ≠
          (State.aeadMac { sealedForOpen with mbuf := [(0x40, 0), (0x41, 0), (0x42, 0)] } [0, 0])[j]) := by
  refine ⟨⟨by decide +kernel, by decide +kernel, ?_, by decide +kernel⟩, ?_, 0, by decide, by decide +kernel⟩ <;>
  exact fun c => by cases c <;> simp only [State.Fails] <;> decide +kernel

theorem witness_SealThenOpenRoundTrip :
    exec (.aeadSeal 12) sealable = .next (after (exec (.aeadSeal 12) sealable)) ∧
    sealedForOpen.fatal = false ∧ sealedForOpen.Passes (.aeadOpen 12) ∧
    sealedForOpen.build.mac = sealable.build.mac ∧ sealedForOpen.ak = sealable.ak ∧
    sealedForOpen.ts = sealable.ts ∧ sealedForOpen.nonceBytes 12 = sealable.nonceBytes 12 ∧
    sealedForOpen.len.val = sealable.len.val + sealable.ts ∧
    (∀ j, j < sealable.len.val + sealable.ts → sealedForOpen.mbufByte (sealedForOpen.src.val + j)
      = (after (exec (.aeadSeal 12) sealable)).mbufByte (sealable.dst.val + j)) ∧
    sealedForOpen.memRead sealedForOpen.aad.val sealedForOpen.aadlen.val
      = sealable.memRead sealable.aad.val sealable.aadlen.val := by
  refine ⟨?_, by decide +kernel,
    fun c => by cases c <;> simp only [State.Fails] <;> decide +kernel,
    by decide +kernel, by decide +kernel, by decide +kernel, by decide +kernel, by decide +kernel,
    by decide +kernel, by decide +kernel⟩
  rw [exec_eq_command]
  rcases State.command_cases sealable _ _ _ with ⟨_, h⟩ | ⟨_, _, _, h⟩ | ⟨_, _, h⟩ <;> rw [h] <;> rfl

/-- For CommandsKeepTheArguments, OnlyTheirCommandsWriteTheContexts and OnlyTheirCommandsWriteTheResults: a
command that runs, one that fails, one that is dropped. NOP and HCHACHA are of none of the excepted kinds but
HCHACHA's own. -/
theorem witness_frames :
    (∃ t, exec (.perm 20 true) State.reset = .next t) ∧ (∃ t, exec .crypt State.reset = .next t) ∧
    (∃ t, exec .nop (broken []) = .next t) ∧ (∃ t, exec .hchacha (broken []) = .next t) :=
  ⟨⟨_, rfl⟩, ⟨_, rfl⟩, ⟨_, rfl⟩, ⟨_, rfl⟩⟩

theorem witness_CommandsWriteOnlyTheirRegion :
    (∃ t, exec .crypt (withOperands (configured 12)) = .next t) ∧
    (0x3F < (withOperands (configured 12)).dst.val) ∧
    (withOperands (configured 12)).dst.val + (withOperands (configured 12)).outLen .crypt ≤ 0x42 :=
  ⟨⟨_, rfl⟩, by decide, by decide⟩

theorem witness_CompletionAndInterrupt :
    State.reset.fatal = false ∧ (∃ t, exec .nop State.reset = .next t) ∧
    (0x00000002 : Word).getLsbD 1 = true ∧ (0b0001#4).getLsbD 0 = true := ⟨rfl, ⟨_, rfl⟩, rfl, rfl⟩

/-- A wrong size, the first and last unmapped offsets, a partial strobe at the ends of the write-only and
read-write registers; then offsets below, above and misaligned in the MBUF window. -/
theorem witness_BusErrors :
    Size.half ≠ .word ∧ unmappedOffset 0x01C ∧ unmappedOffset 0x0BC ∧ unmappedOffset 0x1B0 ∧
    unmappedOffset 0xFFF ∧ (0b0111#4 ≠ 0b1111#4) ∧ readWriteOffset 0x040 ∧ readWriteOffset 0x08C ∧
    readWriteOffset 0x0FC ∧ (0x020 ≤ 0x03C ∧ 0x03C < 0x040) ∧
    0x1000 < State.reset.build.mbufBase ∧ State.reset.build.mbufBase + State.reset.build.mbufBytes ≤ 0x20000 ∧
    (0x10001 - State.reset.build.mbufBase) % Size.half.bytes ≠ 0 := by decide

theorem witness_ReadWriteRegistersReadBack :
    readWriteOffset 0x040 ∧ readWriteOffset 0x054 ∧ readWriteOffset 0x058 ∧ readWriteOffset 0x08C ∧
    readWriteOffset 0x0C0 ∧ readWriteOffset 0x0FC ∧ (0x008 < 0x1000 ∧ 0x008 ≠ 0x040) ∧ (0 : Nat) < 8 ∧
    (7 : Nat) < 8 := by decide

/-- A write of CMD, which is at none of KEY's and the other arguments' offsets; the ends of the read-only ranges;
STATUS with lane 0 off, and with bit 1 clear. -/
theorem witness_RegisterWritesKeepTheContexts :
    (∃ t, State.reset.hostWrite 0x004 .word 0x00000002 0b1111#4 = some t ∧ t.running = some 0x00000002) ∧
    (¬ keyOffset 0x004 ∧ ¬ readWriteOffset 0x004 ∧ ¬ keyOffset 0x040 ∧ ¬ readWriteOffset 0x03C) ∧
    (readOnlyOffset 0x000 ∧ readOnlyOffset 0x010 ∧ readOnlyOffset 0x018 ∧ readOnlyOffset 0x100 ∧
      readOnlyOffset 0x1AC) ∧
    (0b1110#4).getLsbD 0 = false ∧ (0xFFFFFFFD : Word).getLsbD 1 = false :=
  ⟨⟨{ State.reset with running := some 0x00000002 }, by decide +kernel⟩, by decide⟩

/-- The first and the last word of MBUF. -/
theorem witness_MbufWriteWritesItsLanes :
    0x1000 ≤ State.reset.build.mbufBase ∧ 0 % Size.word.bytes = 0 ∧
    0 + Size.word.bytes ≤ State.reset.build.mbufBytes ∧ 0xFFFC % Size.word.bytes = 0 ∧
    0xFFFC + Size.word.bytes ≤ State.reset.build.mbufBytes := by decide

theorem witness_MbufReadGivesItsBytes :
    0x1000 ≤ State.reset.build.mbufBase ∧ 0xFFFE % Size.half.bytes = 0 ∧
    0xFFFE + Size.half.bytes ≤ State.reset.build.mbufBytes := by decide

theorem witness_ReadsAndErrorsHaveNoEffect :
    State.reset.isError (.write 0x040 .word 1 0b0011#4) = true ∧
    State.reset.isError (.read 0x01C .word) = true ∧
    State.reset.hostRead 0x000 .word = some 0x43433230 ∧
    State.reset.hostWrite 0x00C .word 1 0b1111#4 = some { State.reset with ie := true } ∧
    ({ State.reset with host := [.txn (.read 0x000 .word)] }.running = none ∧
      { State.reset with host := [.txn (.read 0x000 .word)] }.held = none) ∧
    ({ State.reset with held := some (.read 0x140 .word) }.running = none ∧
      { State.reset with held := some (.read 0x140 .word) }.held = some (.read 0x140 .word)) ∧
    State.reset.host = [] ∧ { State.reset with host := [.wait] }.host = .wait :: [] := by
  decide +kernel

/-- A CMD write to an idle block; then, with BLOCK running: reads of STATUS and ID, an access that is an
ERROR, a partial strobe in a build of either order, a read of BLK0, and a read of BLK0 that is held already with
nothing, a wait or a second transaction to come. -/
theorem witness_BusyBlockHoldsTransactions :
    ({ State.reset with host := [.txn (.write 0x004 .word 2 0b1111#4)] }.running = none ∧
      { State.reset with host := [.txn (.write 0x004 .word 2 0b1111#4)] }.held = none ∧
      { State.reset with host := [.txn (.write 0x004 .word 2 0b1111#4)] }.fatal = false) ∧
    ((busyWith 2 none [.txn (.read 0x008 .word)]).running = some 2 ∧
      (busyWith 2 none [.txn (.read 0x008 .word)]).held = none ∧
      (busyWith 2 none [.txn (.read 0x000 .word)]).host = .txn (.read 0x000 .word) :: []) ∧
    ((busyWith 2 none [.txn (.read 0x01C .word)]).isError (.read 0x01C .word) = true ∧
      ¬ partialStrobe (.read 0x01C .word)) ∧
    ((busyWith 2 none []).isError (.write 0x040 .word 1 0b0011#4) = true ∧
      partialStrobe (.write 0x040 .word 1 0b0011#4) ∧ partialStrobe (.write 0x03C .word 1 0b0111#4) ∧
      (busyWith 2 none []).build.strobe = .atOnce ∧
      { busyWith 2 none [] with build := { Build.default with strobe := .afterCommand } }.build.strobe
        = .afterCommand) ∧
    ((busyWith 2 none [.txn (.read 0x140 .word)]).host = .txn (.read 0x140 .word) :: [] ∧
      (busyWith 2 none [.txn (.read 0x140 .word)]).isError (.read 0x140 .word) = false ∧
      (.read 0x140 .word : HostTxn) ≠ .read 0x000 .word ∧
      (.read 0x140 .word : HostTxn) ≠ .read 0x008 .word) ∧
    ((busyWith 2 (some (.read 0x140 .word)) []).fatal = false ∧
      (busyWith 2 (some (.read 0x140 .word)) []).held = some (.read 0x140 .word) ∧
      (busyWith 2 (some (.read 0x140 .word)) []).host = [] ∧
      (busyWith 2 (some (.read 0x140 .word)) [.wait, .reset]).host = .wait :: [.reset] ∧
      (busyWith 2 (some (.read 0x140 .word)) [.txn (.read 0x144 .word)]).host
        = .txn (.read 0x144 .word) :: []) := by
  refine ⟨by decide, by decide, ⟨by decide +kernel, id⟩, ⟨by decide +kernel, ?_, ?_, rfl, rfl⟩, ?_, ?_⟩
  · exact ⟨by decide, rfl, by decide⟩
  · exact ⟨by decide, rfl, by decide⟩
  · exact ⟨rfl, by decide +kernel, by decide, by decide⟩
  · exact ⟨rfl, rfl, rfl, rfl, rfl⟩

/-- R91 and R271 on a partial-strobe write of CTRL while BLOCK runs: answered at once, or held for later. -/
theorem test_partial_strobe_orders :
    (State.duringCommand (busyWith 2 none []) (.write 0x00C .word 1 0b0111#4)).resp = some .error ∧
    (State.duringCommand { busyWith 2 none [] with build := { Build.default with strobe := .afterCommand } }
      (.write 0x00C .word 1 0b0111#4)).held = some (.write 0x00C .word 1 0b0111#4) := by decide +kernel

theorem witness_SecretsCannotBeReadFromRegisters :
    (configured 12).sameButSecrets { configured 12 with
      key := key00, ak := .replicate 32 1
      eng := { (configured 12).eng with ks := .replicate 64 1, s := zeroKeyWords.set 4 9 } } ∧
    (0x110 : Nat) < 0x1000 := by
  refine ⟨⟨rfl, ?_⟩, by decide⟩
  intro i h hi
  interval_cases i <;> first | rfl | omega

/-- Offset 0 has a register, 0xFFC none. -/
theorem witness_RegistersAfterReset : ¬ unmappedOffset 0 ∧ unmappedOffset 0xFFC ∧ (0xFFF : Nat) < 0x1000 := by
  decide

theorem witness_ResetWhileIdle :
    (broken [.reset]).running = none ∧ (broken [.reset]).held = none ∧
    (broken [.reset]).host = .reset :: [] := ⟨rfl, rfl, rfl⟩

theorem witness_PowerOnWhileIdle :
    (broken [.powerOn]).running = none ∧ (broken [.powerOn]).held = none ∧
    (broken [.powerOn]).host = .powerOn :: [] := ⟨rfl, rfl, rfl⟩

/-- A CRYPT of two bytes that would fail (EV = 0), with one byte of its region and one outside. -/
theorem witness_ResetDuringACommand :
    ({ busyWith 5 none [.reset] with len := small 2 }.dst.val ≤ 1 ∧
      1 < { busyWith 5 none [.reset] with len := small 2 }.dst.val
        + { busyWith 5 none [.reset] with len := small 2 }.outLen .crypt ∧
      1 < (busyWith 5 none [.reset]).build.mbufBytes ∧
      { busyWith 5 none [.reset] with len := small 2 }.dst.val
        + { busyWith 5 none [.reset] with len := small 2 }.outLen .crypt ≤ 2) ∧
    (busyWith 5 none [.reset]).running = some 5 ∧ decode 5 = .ok .crypt ∧
    (busyWith 5 none [.reset]).host = .reset :: [] ∧ decode 0xFF = .error .reservedOpcode ∧
    (busyWith 5 none [.powerOn]).host = .powerOn :: [] := ⟨by decide, rfl, rfl, rfl, rfl, rfl⟩

/-- A block with both contexts built and bytes in MBUF meets the invariant, and so does a fatal one. -/
theorem witness_EveryStepKeepsTheInvariant :
    ({ withOperands (configured 12) with av := true, ts := 16, authFail := true }).Inv ∧ (broken [.reset]).Inv ∧
    ∃ t, step (broken [.reset]) = .next t :=
  ⟨⟨by decide, by decide, by decide, by decide, by decide⟩, ⟨by decide, by decide, by decide, by decide, by decide⟩,
    _, rfl⟩

end Sys2Proof.Tests
end

/-! PROOFS. The decoder and the table of rule R113 (30_encoding.md). -/

namespace Sys2Proof

open Machine

/-! ### The fields by arithmetic (rule R111) -/

/-- A field is what division drops to its right and remainder to its left. -/
theorem field_eq_div_mod (hi lo : Nat) (w : Word) :
    field hi lo w = w.toNat / 2 ^ lo % 2 ^ (hi + 1 - lo) := by
  rw [field, BitVec.extractLsb'_toNat, Nat.shiftRight_eq_div_pow]

theorem fieldFf_eq_div_mod (w : Word) : fieldFf w = (w.toNat / 2 ^ 21 % 2 == 1) := by
  rw [fieldFf, BitVec.getLsbD, Nat.testBit_eq_decide_div_mod_eq, beq_eq_decide]

/-! ### The statement's table and the decoder's -/

/-- A row of the decoder, read at a word, as the statement of rule R113 writes it. -/
def Row.readAt (w : Word) (r : Row) : Word × Word × Instr := (r.value, r.mask, r.read w)

theorem tableRows_eq_map (w : Word) : tableRows w = opcodeRows.map (Row.readAt w) := by
  simp [tableRows, opcodeRows, Row.readAt, fieldRnd, fieldNlen, fieldTsz, field_eq_div_mod, fieldFf_eq_div_mod]

/-! ### Words and rows (rules R113, R114) -/

/-- Two rows that one word matches are the same row: the table finds only one. -/
theorem row_unique_of_match {w : Word} {r q : Row} (hr : r ∈ opcodeRows) (hq : q ∈ opcodeRows)
    (hrw : w &&& r.mask = r.value) (hqw : w &&& q.mask = q.value) : r = q :=
  Option.some.inj ((matchingRow_eq_some.2 ⟨hr, hrw⟩).symm.trans (matchingRow_eq_some.2 ⟨hq, hqw⟩))

theorem decode_eq_error_of_no_match {w : Word} (h : ∀ r ∈ opcodeRows, w &&& r.mask ≠ r.value) :
    ∃ e, decode w = .error e := by
  rw [decode, matchingRow_eq_none.2 h]
  exact ⟨_, rfl⟩

/-- Settles O3: the statement's table is the decoder's table read at the word, and the decoder's table finds
the one row that the word matches, if there is one. -/
theorem decodesExactlyTheTable : Obligations.DecodesExactlyTheTable := by
  intro w
  simp only [tableRows_eq_map, List.forall_mem_map]
  refine ⟨fun r hr hw => ?accepted, fun h => ?refused, fun r hr q hq hrw hqw => ?unique⟩
  case accepted => exact decode_eq_ok.2 ⟨r, hr, hw, rfl⟩
  case refused => exact decode_eq_error_of_no_match h
  case unique => rw [row_unique_of_match hr hq hrw hqw]

end Sys2Proof

/-! PROOFS. The quarter-round and the counter of the core (40_core.md). -/

namespace Sys2Proof.Machine

/-! ### The quarter-round (rules R10 and R141) -/

/-- The spec's rotation (R10) is Lean's for every amount less than the width. -/
theorem rotl_eq_rotateLeft (v : Word) {n : Nat} (hn : n < 32) : rotl v n = v.rotateLeft n := by
  rw [rotl, BitVec.rotateLeft_def, Nat.mod_eq_of_lt hn]

/-- Which word the quarter-round leaves at each index: of equal indices, the one written last wins. -/
theorem getElem_qr (x : Words16) (a b c d i : Fin 16) :
    (qr x a b c d)[i] =
      if i = d then (quarterRound ⟨x[a], x[b], x[c], x[d]⟩).d
      else if i = c then (quarterRound ⟨x[a], x[b], x[c], x[d]⟩).c
      else if i = b then (quarterRound ⟨x[a], x[b], x[c], x[d]⟩).b
      else if i = a then (quarterRound ⟨x[a], x[b], x[c], x[d]⟩).a
      else x[i] := by
  simp only [qr, Fin.getElem_fin, Vector.getElem_set, Fin.val_inj, eq_comm]

/-- Settles O13: at distinct indices `getElem_qr` gives each its own word of the quarter-round, whose lines are the
rule's once its rotations are Lean's; at any other index it gives the old word. -/
theorem quarterRoundOfTheRule : Obligations.QuarterRoundOfTheRule := by
  intro x a b c d h
  obtain ⟨⟨hab, hac, had⟩, ⟨hbc, hbd⟩, hcd⟩ : (a ≠ b ∧ a ≠ c ∧ a ≠ d) ∧ (b ≠ c ∧ b ≠ d) ∧ c ≠ d := by
    simpa using h
  simp only [getElem_qr]
  refine ⟨?wordA, ?wordB, ?wordC, ?wordD, fun i hi => ?others⟩
  case wordA => simp [hab, hac, had, quarterRound, rotl_eq_rotateLeft]
  case wordB => simp [hbc, hbd, quarterRound, rotl_eq_rotateLeft]
  case wordC => simp [hcd, quarterRound, rotl_eq_rotateLeft]
  case wordD => simp [quarterRound, rotl_eq_rotateLeft]
  case others =>
    obtain ⟨hia, hib, hic, hid⟩ : i ≠ a ∧ i ≠ b ∧ i ≠ c ∧ i ≠ d := by simpa using hi
    simp [hia, hib, hic, hid]

/-! ### The counter (rules R145, R162 and R163) -/

/-- A 64-bit counter is written as its low and its high word, and read back from them. -/
theorem counter_setctr (s : Words16) {nv v : Nat} (hnv : nv ≠ 12) (hv : v < 2 ^ 64) :
    counter (setctr s nv v) nv = v := by
  have hsplit : v % 2 ^ 32 + 2 ^ 32 * (v / 2 ^ 32 % 2 ^ 32) = v := by omega
  simpa [counter, setctr, hnv, Nat.shiftRight_eq_div_pow] using hsplit

/-- The increment of a 64-bit counter sets it to its value plus one, with the wrap. -/
theorem inc_eq_setctr (s : Words16) {nv : Nat} (hnv : nv ≠ 12) :
    inc s nv = setctr s nv ((counter s nv + 1) % 2 ^ 64) := by
  simp [inc, setctr, counter, hnv]

/-- Settles O15: the 32-bit branch is the definition's; the 64-bit counter is read back as it was set, and the
other words are the frame of `inc`. -/
theorem counterIncrement : Obligations.CounterIncrement := by
  intro x nv
  refine ⟨fun hnv => ?narrow, fun hnv => ⟨?wide, fun i hi h12 h13 => ?frame⟩⟩
  case narrow => rw [inc, if_pos hnv]
  case wide =>
    have h : counter (inc x nv) nv = (counter x nv + 1) % 2 ^ 64 := by
      rw [inc_eq_setctr x hnv, counter_setctr x hnv (Nat.mod_lt _ (by decide))]
    simpa only [counter, if_neg hnv] using h
  case frame => exact getElem_inc_of_ne x nv i hi h12 h13

end Sys2Proof.Machine

/-! PROOFS. The end of a command and the interrupt output (60_exceptions.md rules R308 and R309). -/

namespace Sys2Proof.Machine

/-! ### The interrupt output (rule R308) -/

theorem State.irq_eq_true_iff (s : State) : s.irq = true ↔ s.ie = true ∧ s.done = true := by
  rw [State.irq, Bool.and_eq_true]

theorem State.irq_of_done {s : State} (h : s.done = true) : s.irq = s.ie := by
  rw [State.irq, h, Bool.and_true]

theorem State.irq_of_not_done {s : State} (h : s.done = false) : s.irq = false := by
  rw [State.irq, h, Bool.and_false]

/-! ### A command that is not dropped (rules R303 and R309) -/

/-- A fatal error and an effect both end in the common completion; neither touches CTRL. -/
theorem done_ie_of_exec {i : Instr} {s t : State} (hf : s.fatal = false) (h : exec i s = .next t) :
    t.done = true ∧ t.ie = s.ie := by
  rw [exec_eq_command] at h
  obtain ⟨hfatal, -⟩ | ⟨-, c, -, hc⟩ | ⟨-, -, hc⟩ := s.command_cases (encode i) (s.errorOf i) (·.effectOf i)
  case inl => rw [hf] at hfatal; cases hfatal
  case inr.inl => cases hc.symm.trans h; exact ⟨rfl, rfl⟩
  case inr.inr => cases hc.symm.trans h; exact ⟨rfl, s.effectOf_ie i⟩

/-! ### The two writes of the host (rules R40 and R41) -/

/-- STATUS asks for no strobe but lane 0. -/
theorem State.hostWrite_status (s : State) (d : Word) {strobe : BitVec 4} (h : strobe.getLsbD 0 = true) :
    s.hostWrite Reg.status.offset .word d strobe = some (s.writeReg d .status) := by
  have hs : strobeOk .status strobe = true := rfl
  simp [State.hostWrite, Reg.offset_lt, regAccess, regAt_eq_some.2 rfl, hs, h]

theorem State.writeReg_status {s : State} {d : Word} (h : d.getLsbD 1 = true) :
    s.writeReg d .status = { s with done := false } :=
  if_pos h

/-- Settles O43: the output is the conjunction of IE and DONE by definition; a command that is not dropped ends
with DONE = 1 and the same IE, and each of the host's two writes sets one of the two bits. -/
theorem completionAndInterrupt : Obligations.CompletionAndInterrupt := by
  refine ⟨State.irq_eq_true_iff, fun i s t hf h => ?completes,
    fun s d strobe hd hl => ⟨?clears, State.irq_of_not_done rfl⟩, fun s d => ⟨?masks, rfl⟩⟩
  case completes =>
    obtain ⟨hdone, hie⟩ := done_ie_of_exec hf h
    exact ⟨hdone, (State.irq_of_done hdone).trans hie⟩
  case clears => exact (s.hostWrite_status d hl).trans (congrArg some (State.writeReg_status hd))
  case masks => exact s.hostWrite_register .ctrl d (Reg.offset_lt _)

end Sys2Proof.Machine

/-! PROOFS. The command word as its fields: encoding and decoding are inverse (30_encoding.md rules R110 to R117). -/

namespace Sys2Proof

/-! ### A word and its fields (rule R111) -/

/-- The bits that belong to a field: all but [23:22] and [31:29]. -/
def fieldBits : Word := 0x1F3FFFFF

/-- Packing acts on each field alone, so it commutes with AND. -/
theorem packWord_and (op rnd nlen tsz op' rnd' nlen' tsz' : Nat) (ff ff' : Bool) :
    packWord op rnd nlen ff tsz &&& packWord op' rnd' nlen' ff' tsz'
      = packWord (op &&& op') (rnd &&& rnd') (nlen &&& nlen') (ff && ff') (tsz &&& tsz') := by
  refine BitVec.eq_of_getLsbD_eq fun i hi => ?_
  interval_cases i <;> simp [packWord, getElem_place]

/-- The opcode alone, and the other fields without it, make the word. -/
theorem packWord_op_or (op rnd nlen tsz : Nat) (ff : Bool) :
    packWord op 0 0 false 0 ||| packWord 0 rnd nlen ff tsz = packWord op rnd nlen ff tsz := by
  refine BitVec.eq_of_getLsbD_eq fun i hi => ?_
  interval_cases i <;> simp [packWord, getElem_place]

/-- Cutting out the fields of a word and packing them again keeps the fields' bits. -/
theorem packWord_fields (w : Word) :
    packWord (fieldOp w) (fieldRnd w) (fieldNlen w) (fieldFf w) (fieldTsz w) = w &&& fieldBits := by
  refine BitVec.eq_of_getLsbD_eq fun i hi => ?_
  interval_cases i <;>
    simp [packWord, getElem_place, fieldOp, fieldRnd, fieldNlen, fieldFf, fieldTsz, field, fieldBits,
      -BitVec.extractLsb'_toNat]

theorem packWord_and_fieldBits (op rnd nlen tsz : Nat) (ff : Bool) :
    packWord op rnd nlen ff tsz &&& fieldBits = packWord op rnd nlen ff tsz := by
  refine BitVec.eq_of_getLsbD_eq fun i hi => ?_
  interval_cases i <;> simp [packWord, getElem_place, fieldBits]

theorem fieldRnd_lt (w : Word) : fieldRnd w < 2 ^ 8 := BitVec.isLt _

theorem fieldNlen_lt (w : Word) : fieldNlen w < 2 ^ 5 := BitVec.isLt _

theorem fieldTsz_lt (w : Word) : fieldTsz w < 2 ^ 5 := BitVec.isLt _

@[simp] theorem fieldRnd_and_mask (w : Word) : fieldRnd w &&& 0xFF = fieldRnd w :=
  Nat.and_two_pow_sub_one_of_lt_two_pow (fieldRnd_lt w)

@[simp] theorem fieldNlen_and_mask (w : Word) : fieldNlen w &&& 0x1F = fieldNlen w :=
  Nat.and_two_pow_sub_one_of_lt_two_pow (fieldNlen_lt w)

@[simp] theorem fieldTsz_and_mask (w : Word) : fieldTsz w &&& 0x1F = fieldTsz w :=
  Nat.and_two_pow_sub_one_of_lt_two_pow (fieldTsz_lt w)

/-! ### A word and a row's mask (rule R113) -/

/-- A packed word decodes by a row if, of each field, what the row's mask has of it is as in the row's value. -/
theorem decode_packWord {r : Row} (hr : r ∈ opcodeRows) {op rnd nlen tsz : Nat} {ff : Bool}
    (mrnd mnlen : Nat) (mff : Bool) (mtsz : Nat) (hm : fieldBits &&& r.mask = packWord 0xFF mrnd mnlen mff mtsz)
    (hv : packWord (op &&& 0xFF) (rnd &&& mrnd) (nlen &&& mnlen) (ff && mff) (tsz &&& mtsz) = r.value) :
    decode (packWord op rnd nlen ff tsz) = .ok (r.read (packWord op rnd nlen ff tsz)) := by
  refine decode_eq_ok.2 ⟨r, hr, ?_, rfl⟩
  rw [← packWord_and_fieldBits op, BitVec.and_assoc, hm, packWord_and, hv]

/-- A word that has an opcode and nothing else under a mask is that opcode with the fields the mask leaves out. -/
theorem packWord_of_match {w m : Word} (op mrnd mnlen : Nat) (mff : Bool) (mtsz : Nat)
    (hm : ~~~m = packWord 0 mrnd mnlen mff mtsz) (h : w &&& m = packWord op 0 0 false 0) :
    packWord op (fieldRnd w &&& mrnd) (fieldNlen w &&& mnlen) (fieldFf w && mff) (fieldTsz w &&& mtsz) = w := by
  have rest : packWord 0 (fieldRnd w &&& mrnd) (fieldNlen w &&& mnlen) (fieldFf w && mff)
      (fieldTsz w &&& mtsz) = w &&& ~~~m := by
    calc _ = w &&& fieldBits &&& packWord 0 mrnd mnlen mff mtsz := by
          rw [← packWord_fields, packWord_and, Nat.and_zero]
      _ = w &&& ~~~m := by rw [hm, BitVec.and_assoc, BitVec.and_comm fieldBits, packWord_and_fieldBits]
  rw [← packWord_op_or, rest, ← h, ← BitVec.and_or_distrib_left, BitVec.or_not_self, BitVec.and_allOnes]

/-! ### The twelve commands (rules R112, R113 and R117) -/

/-- Settles O1: the row of each command. A well-formed field lies in bits that the row's mask leaves out, so the word
matches the row, and the row's reader cuts the field out again. -/
theorem decodeOfEncode : Obligations.DecodeOfEncode := by
  have row (k : Nat) (hk : k < 12) : opcodeRows[k]'hk ∈ opcodeRows := List.getElem_mem _
  intro i hi
  cases i with
  | nop | block | hchacha | crypt | setctr => rfl
  | perm rnd ff =>
    have hrnd : rnd < 256 := by simpa [Instr.wellFormed] using hi
    refine (decode_packWord (row 1 (by decide)) 0 0x1F false 0x1F rfl
      (by simp only [Nat.and_zero, Bool.and_false]; rfl)).trans ?_
    simp [opcodeRows, fieldRnd_packWord, fieldFf_packWord, Nat.mod_eq_of_lt hrnd]
  | setup rnd nlen =>
    obtain ⟨hrnd, hnlen⟩ : rnd < 256 ∧ nlen < 32 := by simpa [Instr.wellFormed] using hi
    refine (decode_packWord (row 3 (by decide)) 0 0 true 0x1F rfl (by simp only [Nat.and_zero]; rfl)).trans ?_
    simp [opcodeRows, fieldRnd_packWord, fieldNlen_packWord, Nat.mod_eq_of_lt hrnd, Nat.mod_eq_of_lt hnlen]
  | setnonce nlen =>
    have hnlen : nlen < 32 := by simpa [Instr.wellFormed] using hi
    refine (decode_packWord (row 7 (by decide)) 0xFF 0 true 0x1F rfl (by simp only [Nat.and_zero]; rfl)).trans ?_
    simp [opcodeRows, fieldNlen_packWord, Nat.mod_eq_of_lt hnlen]
  | oneshot rnd nlen =>
    obtain ⟨hrnd, hnlen⟩ : rnd < 256 ∧ nlen < 32 := by simpa [Instr.wellFormed] using hi
    refine (decode_packWord (row 8 (by decide)) 0 0 true 0x1F rfl (by simp only [Nat.and_zero]; rfl)).trans ?_
    simp [opcodeRows, fieldRnd_packWord, fieldNlen_packWord, Nat.mod_eq_of_lt hrnd, Nat.mod_eq_of_lt hnlen]
  | aeadInit tsz =>
    have htsz : tsz < 32 := by simpa [Instr.wellFormed] using hi
    refine (decode_packWord (row 9 (by decide)) 0xFF 0x1F true 0 rfl (by simp only [Nat.and_zero]; rfl)).trans ?_
    simp [opcodeRows, fieldTsz_packWord, Nat.mod_eq_of_lt htsz]
  | aeadSeal nlen =>
    have hnlen : nlen < 32 := by simpa [Instr.wellFormed] using hi
    refine (decode_packWord (row 10 (by decide)) 0xFF 0 true 0x1F rfl (by simp only [Nat.and_zero]; rfl)).trans ?_
    simp [opcodeRows, fieldNlen_packWord, Nat.mod_eq_of_lt hnlen]
  | aeadOpen nlen =>
    have hnlen : nlen < 32 := by simpa [Instr.wellFormed] using hi
    refine (decode_packWord (row 11 (by decide)) 0xFF 0 true 0x1F rfl (by simp only [Nat.and_zero]; rfl)).trans ?_
    simp [opcodeRows, fieldNlen_packWord, Nat.mod_eq_of_lt hnlen]

/-- Settles O2: what a matching word holds outside the row's mask are the fields that the row reads. -/
theorem encodeOfDecode : Obligations.EncodeOfDecode := by
  intro w i h
  obtain ⟨r, hr, hw, rfl⟩ := decode_eq_ok.1 h
  have hrnd : fieldRnd w < 256 := fieldRnd_lt w
  have hnlen : fieldNlen w < 32 := fieldNlen_lt w
  have htsz : fieldTsz w < 32 := fieldTsz_lt w
  simp only [opcodeRows, List.mem_cons, List.not_mem_nil, or_false] at hr
  rcases hr with rfl | rfl | rfl | rfl | rfl | rfl | rfl | rfl | rfl | rfl | rfl | rfl
  · simpa [encode, Instr.wellFormed] using packWord_of_match 0 0 0 false 0 rfl hw
  · simpa [encode, Instr.wellFormed, hrnd] using packWord_of_match 1 0xFF 0 true 0 rfl hw
  · simpa [encode, Instr.wellFormed] using packWord_of_match 2 0 0 false 0 rfl hw
  · simpa [encode, Instr.wellFormed, hrnd, hnlen] using packWord_of_match 3 0xFF 0x1F false 0 rfl hw
  · simpa [encode, Instr.wellFormed] using packWord_of_match 4 0 0 false 0 rfl hw
  · simpa [encode, Instr.wellFormed] using packWord_of_match 5 0 0 false 0 rfl hw
  · simpa [encode, Instr.wellFormed] using packWord_of_match 6 0 0 false 0 rfl hw
  · simpa [encode, Instr.wellFormed, hnlen] using packWord_of_match 7 0 0x1F false 0 rfl hw
  · simpa [encode, Instr.wellFormed, hrnd, hnlen] using packWord_of_match 8 0xFF 0x1F false 0 rfl hw
  · simpa [encode, Instr.wellFormed, htsz] using packWord_of_match 9 0 0 false 0x1F rfl hw
  · simpa [encode, Instr.wellFormed, hnlen] using packWord_of_match 10 0 0x1F false 0 rfl hw
  · simpa [encode, Instr.wellFormed, hnlen] using packWord_of_match 11 0 0x1F false 0 rfl hw

/-- Settles O4: each word of the table, evaluated. -/
theorem wordsOfTheAssembler : Obligations.WordsOfTheAssembler :=
  ⟨rfl, rfl, rfl, rfl, rfl, rfl, rfl, rfl, rfl, rfl, rfl, rfl, rfl, rfl, rfl, rfl, rfl, rfl⟩

end Sys2Proof

/-! PROOFS. Which check of a command fails, and what follows (60_exceptions.md rules R301 to R303 and R309). -/

namespace Sys2Proof.Machine

/-! ### The checks as one list of causes (rule R302) -/

/-- The codes that a command's own checks can give, the lowest first. -/
def causeOrder : List ErrCode :=
  [.notConfigured, .rounds, .nonceSize, .tagSize, .counter, .length, .dstShort, .range, .overlap]

theorem causeOrder_sorted : causeOrder.Pairwise fun c d => c.code.toNat ≤ d.code.toNat := by decide

theorem ErrCode.code_injective {c d : ErrCode} (h : c.code.toNat = d.code.toNat) : c = d := by
  revert h; cases c <;> cases d <;> decide

theorem State.Fails.mem_causeOrder {s : State} {i : Instr} {c : ErrCode} (h : s.Fails i c) : c ∈ causeOrder := by
  cases c with
  | noError | illegal => exact h.elim
  | _ => decide

theorem find?_cons_ite {p : ErrCode → Prop} [DecidablePred p] (c : ErrCode) (l : List ErrCode) :
    (c :: l).find? (fun d => decide (p d)) = if p c then some c else l.find? fun d => decide (p d) := by
  rw [List.find?_cons]; split <;> simp_all

/-- A check that a rule states as what must hold, as its cause. -/
theorem ite_none_some (p : Prop) [Decidable p] (c : ErrCode) :
    (if p then none else some c) = if ¬ p then some c else none := by
  split <;> simp_all

/-- A command's checks, in the order in which its rule makes them, give the first cause that holds. -/
theorem State.errorOf_eq_find? (s : State) (i : Instr) [DecidablePred (s.Fails i)] :
    s.errorOf i = causeOrder.find? fun c => decide (s.Fails i c) := by
  have hctr : 4294967296 ≤ s.ctr.val ↔ s.ctr.hi ≠ 0 := s.ctr.le_val
  simp only [causeOrder, find?_cons_ite, List.find?_nil]
  cases i with
  | nop | hchacha => simp [State.errorOf, State.Fails, usesMbuf]
  | perm rnd ff => simp [State.errorOf, State.Fails, usesMbuf, permError, ite_none_some]
  | block => simp [State.errorOf, State.Fails, usesMbuf, State.blockError, ite_none_some]
  | setup rnd nlen => simp [State.errorOf, State.Fails, usesMbuf, setupError]
  | crypt =>
    simp [State.errorOf, State.Fails, usesMbuf, State.outLen, State.aadLenOf, State.cryptError,
      State.bufferError_eq, cipherBound]
  | setctr => simp [State.errorOf, State.Fails, usesMbuf, State.setctrError, hctr]
  | setnonce nlen => simp [State.errorOf, State.Fails, usesMbuf, State.setnonceError]
  | oneshot rnd nlen =>
    simp [State.errorOf, State.Fails, usesMbuf, State.outLen, State.aadLenOf, State.oneshotError,
      State.bufferError_eq, cipherBound, hctr]
  | aeadInit tsz =>
    have htag : ¬ legalTag tsz ↔ tsz = 0 ∨ 16 < tsz := by unfold legalTag; omega
    simp only [State.errorOf, aeadInitError, ite_none_some, htag]
    simp [State.Fails, usesMbuf]
  | aeadSeal nlen =>
    simp [State.errorOf, State.Fails, usesMbuf, State.outLen, State.aadLenOf, State.sealError,
      State.bufferError_eq, aeadBound]
  | aeadOpen nlen =>
    simp [State.errorOf, State.Fails, usesMbuf, State.outLen, State.aadLenOf, State.openError,
      State.bufferError_eq, State.openBodyLen_eq, aeadBound]

theorem State.errorOf_eq_none {s : State} {i : Instr} : s.errorOf i = none ↔ s.Passes i := by
  classical
  rw [s.errorOf_eq_find? i, List.find?_eq_none]
  exact ⟨fun h c hc => h c hc.mem_causeOrder (by simpa using hc), fun h c _ => by simpa using h c⟩

/-- The code that a command's checks give is the lowest that applies. -/
theorem State.errorOf_eq_some {s : State} {i : Instr} {c : ErrCode} :
    s.errorOf i = some c ↔ s.Fails i c ∧ ∀ d, s.Fails i d → c.code.toNat ≤ d.code.toNat := by
  classical
  have lowest : ∀ {c}, s.errorOf i = some c → s.Fails i c ∧ ∀ d, s.Fails i d → c.code.toNat ≤ d.code.toNat := by
    intro c h
    rw [s.errorOf_eq_find? i, List.find?_eq_some_iff_append] at h
    obtain ⟨hc, before, later, hl, hb⟩ := h
    refine ⟨by simpa using hc, fun d hd => ?_⟩
    have hmem := hd.mem_causeOrder
    have hsorted := causeOrder_sorted
    rw [hl] at hmem hsorted
    rcases List.mem_append.1 hmem with hd' | hd'
    · exact absurd hd (by simpa using hb d hd')
    · rcases List.mem_cons.1 hd' with rfl | hd'
      · exact le_refl _
      · exact List.rel_of_pairwise_cons (List.pairwise_append.1 hsorted).2.1 hd'
  refine ⟨lowest, fun ⟨hc, hlow⟩ => ?_⟩
  cases he : s.errorOf i with
  | none => exact absurd hc (State.errorOf_eq_none.1 he c)
  | some d =>
    obtain ⟨hd, hdlow⟩ := lowest he
    rw [ErrCode.code_injective ((hlow d hd).antisymm (hdlow c hc))]

/-! ### What a failing and a passing command do (rules R303 and R309) -/

theorem exec_of_error {i : Instr} {s : State} {c : ErrCode} (hf : s.fatal = false) (h : s.errorOf i = some c) :
    exec i s = .next (s.raiseFatal c (encode i)).complete := by
  rw [exec_eq_command, h, State.command_error hf]

theorem exec_of_passes {i : Instr} {s : State} (hf : s.fatal = false) (h : s.Passes i) :
    exec i s = .next (s.effectOf i).complete := by
  rw [exec_eq_command, State.errorOf_eq_none.2 h, State.command_effect hf]

/-- Settles O8: the code of the first failing check is the lowest that applies, and fatal entry writes the record. -/
theorem fatalReportsTheLowestCode : Obligations.FatalReportsTheLowestCode :=
  fun _ _ _ hf hc hlow => exec_of_error hf (State.errorOf_eq_some.2 ⟨hc, hlow⟩)

/-- Settles O9: the effect of a command leaves the error record alone, and completion writes DONE and BUSY. -/
theorem passingCommandCompletes : Obligations.PassingCommandCompletes :=
  fun i s hf hp => ⟨_, exec_of_passes hf hp, rfl, rfl, by simp [hf], by simp, by simp⟩

end Sys2Proof.Machine

/-! PROOFS. What one step does (45_host_access.md rule R274, 20_memory.md rule R91). -/

namespace Sys2Proof.Machine

/-! ### Every command, and every step, answers -/

theorem State.command_answers (s : State) (w : Word) (e : Option ErrCode) (f : State → State) :
    ∃ t, s.command w e f = .next t := by
  rcases s.command_cases w e f with ⟨-, h⟩ | ⟨-, c, -, h⟩ | ⟨-, -, h⟩ <;> exact ⟨_, h⟩

theorem State.issue_ok {s : State} {w : Word} {i : Instr} (h : decode w = .ok i) : s.issue w = exec i s := by
  rw [State.issue, h]

theorem State.issue_error {s : State} {w : Word} {e : IllegalWord} (h : decode w = .error e) :
    s.issue w = s.command w (some .illegal) id := by
  rw [State.issue, h]

theorem State.issue_answers (s : State) (w : Word) : ∃ t, s.issue w = .next t := by
  cases h : decode w with
  | ok i => rw [State.issue_ok h, exec_eq_command]; exact s.command_answers _ _ _
  | error e => rw [State.issue_error h]; exact s.command_answers _ _ _

theorem step_busy {s : State} {w : Word} (h : s.running = some w) :
    step s = State.busyStep { s with resp := none } w := by
  rw [step, State.advance, h]

theorem step_idle {s : State} (h : s.running = none) : step s = State.idleStep { s with resp := none } := by
  rw [step, State.advance, h]

theorem State.busyStep_answers (s : State) (w : Word) : ∃ t, s.busyStep w = .next t := by
  rw [State.busyStep]
  split
  · exact ⟨_, rfl⟩
  · exact ⟨_, rfl⟩
  · exact ⟨_, rfl⟩
  all_goals exact State.issue_answers _ w

theorem State.idleStep_answers (s : State) : ∃ t, s.idleStep = .next t := by
  rw [State.idleStep]
  split <;> exact ⟨_, rfl⟩

/-- Settles O7: while a command runs and while none does. -/
theorem everyStepAnswers : Obligations.EveryStepAnswers := by
  intro s
  cases h : s.running with
  | some w => rw [step_busy h]; exact State.busyStep_answers _ w
  | none => rw [step_idle h]; exact State.idleStep_answers _

/-! ### When the running command executes -/

/-- With nothing to come from the host the running command executes. -/
theorem step_executes_of_nil {s : State} {w : Word} (h : s.running = some w) (hh : s.host = []) :
    step s = State.issue { s with resp := none } w := by
  rw [step_busy h, State.busyStep]
  simp only [hh]

/-- A wait of the host lets the running command execute, and is used up. -/
theorem step_executes_of_wait {s : State} {w : Word} {rest : List HostEvent} (h : s.running = some w)
    (hh : s.host = .wait :: rest) : step s = State.issue { s with resp := none, host := rest } w := by
  rw [step_busy h, State.busyStep]
  simp only [hh]

/-- A second transaction begins only after the running command (R81). -/
theorem step_executes_of_held {s : State} {w : Word} {x u : HostTxn} {rest : List HostEvent}
    (h : s.running = some w) (hx : s.held = some x) (hh : s.host = .txn u :: rest) :
    step s = State.issue { s with resp := none } w := by
  rw [step_busy h, State.busyStep]
  simp only [hx, hh]

/-- Settles O5: the three cases in which the host lets the command execute. -/
theorem stepRunsTheDecodedCommand : Obligations.StepRunsTheDecodedCommand := by
  intro s w i hw hd
  refine ⟨fun hh => ?_, fun rest hh => ?_, fun x u rest hx hh => ?_⟩
  · rw [step_executes_of_nil hw hh, State.issue_ok hd]
  · rw [step_executes_of_wait hw hh, State.issue_ok hd]
  · rw [step_executes_of_held hw hx hh, State.issue_ok hd]

/-- Settles O6: the same three cases; the word's own error is ILLEGAL. -/
theorem illegalWordIsFatal : Obligations.IllegalWordIsFatal := by
  intro s w e hw hd hf
  have illegal : ∀ u : State, u.fatal = false → u.issue w = .next (u.raiseFatal .illegal w).complete :=
    fun u hu => by rw [State.issue_error hd, State.command_error hu]
  refine ⟨fun hh => ?_, fun rest hh => ?_, fun x u rest hx hh => ?_⟩
  · exact (step_executes_of_nil hw hh).trans (illegal _ hf)
  · exact (step_executes_of_wait hw hh).trans (illegal _ hf)
  · exact (step_executes_of_held hw hx hh).trans (illegal _ hf)

end Sys2Proof.Machine

/-! PROOFS. What commands and host writes may change, and the invariant (10_state.md, 20_memory.md). -/

namespace Sys2Proof.Machine

/-! ### What a command writes in MBUF (rules R193, R197, R237 and R238) -/

/-- A command leaves MBUF alone, or writes at DST a string no longer than its region. -/
theorem State.effectOf_mbuf_cases (s : State) (i : Instr) :
    (s.effectOf i).mbuf = s.mbuf ∨
    usesMbuf i = true ∧ ∃ B, B.length ≤ s.outLen i ∧ (s.effectOf i).mbuf = s.memWrite s.dst.val B := by
  cases i with
  | nop | perm | block | setup | hchacha | setctr | setnonce | aeadInit => exact .inl rfl
  | crypt => exact .inr ⟨rfl, _, by simp [State.outLen], s.cryptEffect_mbuf⟩
  | oneshot rnd nlen => exact .inr ⟨rfl, _, by simp [State.outLen], rfl⟩
  | aeadSeal nlen => exact .inr ⟨rfl, _, by simp [State.outLen], s.sealEffect_mbuf⟩
  | aeadOpen nlen =>
    cases h : s.authentic with
    | true =>
      refine .inr ⟨rfl, (xks (aeadSetup s.ak.toList (s.nonceBytes 12)).1 s.openBody).1, ?_, ?_⟩
      · simp [State.outLen, State.openBodyLen_eq]
      · rw [State.effectOf, s.openEffect_accepts h]
    | false => left; rw [State.effectOf, s.openEffect_rejects h]

/-- A command that passes its checks writes inside MBUF (rule R86). -/
theorem State.Passes.outLen_le {s : State} {i : Instr} (h : s.Passes i) (hu : usesMbuf i = true) :
    s.outLen i = 0 ∨ s.dst.val + s.outLen i ≤ s.build.mbufBytes := by
  have hshort : ¬ (usesMbuf i = true ∧ s.dlen.val < s.outLen i) := h .dstShort
  have hrange : ¬ (usesMbuf i = true ∧ (_ ∨ (s.dlen.val ≠ 0 ∧ s.build.mbufBytes < s.dst.val + s.dlen.val) ∨ _)) :=
    h .range
  have hdst : ¬ (s.dlen.val ≠ 0 ∧ s.build.mbufBytes < s.dst.val + s.dlen.val) :=
    fun hd => hrange ⟨hu, .inr (.inl hd)⟩
  have hlen : ¬ s.dlen.val < s.outLen i := fun hl => hshort ⟨hu, hl⟩
  omega

/-! ### What a host write may change (rules R271 and R273) -/

/-- A register write changes at most the argument registers, IE, DONE and the captured word. -/
theorem State.writeReg_frame (s : State) (d : Word) (r : Reg) :
    s.writeReg d r = { s with
      key := (s.writeReg d r).key, nonce := (s.writeReg d r).nonce, ctr := (s.writeReg d r).ctr
      src := (s.writeReg d r).src, dst := (s.writeReg d r).dst, len := (s.writeReg d r).len
      dlen := (s.writeReg d r).dlen, aad := (s.writeReg d r).aad, aadlen := (s.writeReg d r).aadlen
      sin := (s.writeReg d r).sin, ie := (s.writeReg d r).ie, done := (s.writeReg d r).done
      running := (s.writeReg d r).running } := by
  cases r with
  | cmd => rw [State.writeReg, State.issueCommand]; split <;> rfl
  | status => rw [State.writeReg]; split <;> rfl
  | pair p hi => cases p <;> rfl
  | _ => rfl

/-- Only a write of CMD captures a word, and only while FATAL = 0 (rule R305). -/
theorem State.writeReg_running (s : State) (d : Word) (r : Reg) :
    (s.writeReg d r).running = s.running ∨
    r = .cmd ∧ s.fatal = false ∧ s.writeReg d r = { s with running := some d } := by
  cases r with
  | cmd =>
    rw [State.writeReg, State.issueCommand]
    cases h : s.fatal with
    | true => exact .inl rfl
    | false => exact .inr ⟨rfl, rfl, rfl⟩
  | status => rw [State.writeReg]; split <;> exact .inl rfl
  | pair p hi => cases p <;> exact .inl rfl
  | _ => exact .inl rfl

/-- What a host write can do: nothing, write one register, or write lanes inside MBUF. -/
theorem State.hostWrite_some {s t : State} {off : Nat} {size : Size} {d : Word} {strobe : BitVec 4}
    (hw : s.hostWrite off size d strobe = some t) :
    (off < 0x1000 ∧ (t = s ∨ ∃ r : Reg, r.offset = off ∧ t = s.writeReg d r)) ∨
    (0x1000 ≤ off ∧ s.mbufAccess off size ∧ t = s.writeLanes (off - s.build.mbufBase) d strobe size.bytes 0) := by
  by_cases h : off < 0x1000
  · exact .inl ⟨h, State.hostWrite_cases h hw⟩
  · simp only [State.hostWrite, inRegisters, h, if_false] at hw
    split at hw
    · exact .inr ⟨not_lt.1 h, ‹_›, (Option.some.inj hw).symm⟩
    · cases hw

/-- The lanes of an MBUF write keep the canonical form and MBUF's bounds (rule R80). -/
theorem State.writeLanes_ok {s : State} {a n k size : Nat} (d : Word) (strobe : BitVec 4)
    (h : memoryOk size s.mbuf) (hb : a + k + n ≤ size) :
    memoryOk size (s.writeLanes a d strobe n k).mbuf := by
  induction n generalizing s k with
  | zero => exact h
  | succ n ih =>
    rw [State.writeLanes]
    refine ih ?_ (by omega)
    split
    · refine ⟨Memory.set_wf h.1 _ _, fun c hc => ?_⟩
      rcases Memory.mem_set hc with rfl | hc
      · exact (by omega : a + k < size)
      · exact h.2 c hc
    · exact h

/-- Performing a transaction is answering it, after a write that `hostWrite` allows or after nothing. -/
theorem State.perform_cases (s : State) (x : HostTxn) :
    ∃ u r, s.perform x = { u with resp := some r } ∧
      (u = s ∨ ∃ off size d strobe, x = .write off size d strobe ∧ s.hostWrite off size d strobe = some u) := by
  cases x with
  | read off size =>
    rw [State.perform]
    split <;> exact ⟨s, _, rfl, .inl rfl⟩
  | write off size d strobe =>
    rw [State.perform]
    split
    · rename_i u hu; exact ⟨u, _, rfl, .inr ⟨off, size, d, strobe, rfl, hu⟩⟩
    · exact ⟨s, _, rfl, .inl rfl⟩

/-! ### The invariant through one command -/

/-- The engine context stays legal when the rounds, the variant and the constants stay. -/
theorem engineOk_of_same {ev : Bool} {e e' : Engine} (hev : ev = true) (h : engineOk ev e) (hr : e'.r = e.r)
    (hnv : e'.nv = e.nv) (hs : ∀ i (hi : i < 4), e'.s[i] = e.s[i]) : engineOk ev e' := by
  obtain ⟨hrounds, hnonce, c0, c1, c2, c3⟩ := h.2 hev
  refine ⟨fun hf => absurd hev (by simp [hf]), fun _ => ⟨hr ▸ hrounds, hnv ▸ hnonce, ?_, ?_, ?_, ?_⟩⟩
  · exact (hs 0 (by decide)).trans c0
  · exact (hs 1 (by decide)).trans c1
  · exact (hs 2 (by decide)).trans c2
  · exact (hs 3 (by decide)).trans c3

/-- The words of a layout: constants, key, and the four words given (rule R161). -/
theorem getElem_layout (K : ByteString) (w12 w13 w14 w15 : Word) (i : Nat) (hi : i < 16) :
    (layout K w12 w13 w14 w15)[i] =
      if h : i < 12 then if h' : i < 4 then constants[i] else le32 K (4 * (i - 4))
      else #v[w12, w13, w14, w15][i - 12] := by
  refine (Vector.getElem_append (xs := constants ++ wordsOf 8 K) hi).trans ?_
  split
  · rename_i h
    refine (Vector.getElem_append h).trans ?_
    simp [wordsOf]
  · rfl

/-- Words 0 to 3 of a layout are the constants (rule R160). -/
theorem layout_constants (K : ByteString) (w12 w13 w14 w15 : Word) :
    (layout K w12 w13 w14 w15)[0] = 0x61707865 ∧ (layout K w12 w13 w14 w15)[1] = 0x3320646e ∧
    (layout K w12 w13 w14 w15)[2] = 0x79622d32 ∧ (layout K w12 w13 w14 w15)[3] = 0x6b206574 := by
  simp [getElem_layout, constants]

theorem init_constants (K N : ByteString) (nv : Nat) :
    (init K N nv)[0] = 0x61707865 ∧ (init K N nv)[1] = 0x3320646e ∧
    (init K N nv)[2] = 0x79622d32 ∧ (init K N nv)[3] = 0x6b206574 := by
  unfold init
  split
  · exact layout_constants ..
  · split <;> exact layout_constants ..

theorem getElem_setctr_of_lt (s : Words16) (nv v : Nat) {i : Nat} (hi : i < 12) : (setctr s nv v)[i] = s[i] := by
  unfold setctr
  split <;> simp [show 12 ≠ i by omega, show 13 ≠ i by omega]

theorem getElem_setnonce_of_lt (s : Words16) (nv : Nat) (N : ByteString) {i : Nat} (hi : i < 13) :
    (setnonce s nv N)[i] = s[i] := by
  unfold setnonce
  split <;> simp [show 13 ≠ i by omega, show 14 ≠ i by omega, show 15 ≠ i by omega]

/-- The engine context after a command that passes its checks. -/
theorem engineOk_effectOf {s : State} {i : Instr} (h : engineOk s.ev s.eng) (hp : s.Passes i) :
    engineOk (s.effectOf i).ev (s.effectOf i).eng := by
  have configured (hev : ¬ s.ev = false) : s.ev = true := by simpa using hev
  cases i with
  | nop | perm | hchacha | oneshot | aeadInit | aeadSeal => exact h
  | aeadOpen => simpa only [State.effectOf, State.openEffect_ev, State.openEffect_eng] using h
  | block =>
    refine engineOk_of_same (configured (hp .notConfigured)) h rfl rfl fun i hi => ?_
    exact getElem_inc_of_ne _ _ i (by omega) (by omega) (by omega)
  | crypt =>
    have hf := xks_follows s.eng (s.memRead s.src.val s.len.val)
    refine engineOk_of_same (configured (hp .notConfigured)) h hf.r hf.nv fun i hi => ?_
    exact hf.s i (by omega) (by omega) (by omega)
  | setctr =>
    exact engineOk_of_same (configured (hp .notConfigured)) h rfl rfl fun i hi =>
      getElem_setctr_of_lt _ _ _ (by omega)
  | setnonce nlen =>
    exact engineOk_of_same (configured (hp .notConfigured)) h rfl rfl fun i hi =>
      getElem_setnonce_of_lt _ _ _ (by omega)
  | setup rnd nlen =>
    have hrounds : ¬ (rnd ≠ 8 ∧ rnd ≠ 12 ∧ rnd ≠ 20) := hp .rounds
    have hnonce : ¬ (nlen ≠ 8 ∧ nlen ≠ 12 ∧ nlen ≠ 24) := hp .nonceSize
    refine ⟨fun hev => (by cases hev), fun _ => ⟨?_, ?_, init_constants ..⟩⟩
    · exact (by omega : legalRounds rnd)
    · exact (by omega : legalNonce nlen)

/-- The AEAD context after a command that passes its checks. -/
theorem aeadOk_effectOf {s : State} {i : Instr} (h : aeadOk s.av s.ak s.ts s.authFail) (hp : s.Passes i) :
    aeadOk (s.effectOf i).av (s.effectOf i).ak (s.effectOf i).ts (s.effectOf i).authFail := by
  cases i with
  | nop | perm | block | setup | hchacha | crypt | setctr | setnonce | oneshot => exact h
  | aeadInit tsz =>
    have htag : ¬ (tsz = 0 ∨ 16 < tsz) := hp .tagSize
    refine ⟨fun hav => (by cases hav), fun _ => ?_⟩
    exact (by omega : legalTag tsz)
  | aeadSeal nlen =>
    have hav : ¬ s.av = false := hp .notConfigured
    exact ⟨fun hf => absurd hf hav, h.2⟩
  | aeadOpen nlen =>
    have hav : ¬ s.av = false := hp .notConfigured
    simp only [State.effectOf, State.openEffect_av, State.openEffect_ts]
    exact ⟨fun hf => absurd hf hav, h.2⟩

/-- MBUF after a command that passes its checks. -/
theorem memoryOk_effectOf {s : State} {i : Instr} (h : memoryOk s.build.mbufBytes s.mbuf) (hp : s.Passes i) :
    memoryOk s.build.mbufBytes (s.effectOf i).mbuf := by
  rcases s.effectOf_mbuf_cases i with hm | ⟨hu, B, hB, hm⟩
  · rw [hm]; exact h
  · rw [hm]
    have := hp.outLen_le hu
    exact State.memWrite_ok h.1 h.2 (by omega)

/-- A command, run as the common frame does it, keeps the invariant, if its checks never give code 0 and its effect
keeps what the invariant says when they pass. -/
theorem State.Inv.command {s t : State} {w : Word} {e : Option ErrCode} {f : State → State} (h : s.Inv)
    (he : e ≠ some .noError) (heff : s.fatal = false → e = none → (f s).complete.Inv)
    (hx : s.command w e f = .next t) : t.Inv := by
  rcases s.command_cases w e f with ⟨hf, hc⟩ | ⟨hf, c, hc', hc⟩ | ⟨hf, hn, hc⟩ <;> cases hc.symm.trans hx
  · exact ⟨h.build, h.memory, h.engine, h.aead, h.record.1, fun hfat => ⟨(h.record.2 hfat).1, rfl⟩⟩
  · refine ⟨h.build, h.memory, h.engine, h.aead, fun hfat => (by cases hfat), fun _ => ⟨?_, rfl⟩⟩
    rintro (rfl : c = .noError)
    exact he hc'
  · exact heff hf hn

theorem State.Inv.exec {s t : State} {i : Instr} (h : s.Inv) (hx : exec i s = .next t) : t.Inv := by
  rw [exec_eq_command] at hx
  refine h.command (fun he => (State.errorOf_eq_some.1 he).1) (fun hf hn => ?_) hx
  have hp := State.errorOf_eq_none.1 hn
  refine ⟨?_, ?_, engineOk_effectOf h.engine hp, aeadOk_effectOf h.aead hp, fun _ => ?_, fun hfat => ?_⟩
  · simpa using h.build
  · simpa using memoryOk_effectOf h.memory hp
  · simpa using h.record.1 hf
  · simp [hf] at hfat

theorem State.Inv.issue {s t : State} {w : Word} (h : s.Inv) (hx : s.issue w = .next t) : t.Inv := by
  cases hd : decode w with
  | ok i => exact h.exec ((State.issue_ok hd).symm.trans hx)
  | error e => exact h.command (by decide) (fun _ hn => by cases hn) ((State.issue_error hd).symm.trans hx)

/-! ### The invariant through the host's events -/

/-- The invariant says nothing of what is held, to come or on the bus. -/
theorem State.Inv.queue {s : State} (h : s.Inv) (held : Option HostTxn) (host : List HostEvent)
    (resp : Option Response) : { s with held := held, host := host, resp := resp }.Inv :=
  ⟨h.build, h.memory, h.engine, h.aead, h.record⟩

theorem State.Inv.writeReg {s : State} (h : s.Inv) (d : Word) (r : Reg) : (s.writeReg d r).Inv := by
  rcases s.writeReg_running d r with hr | ⟨-, hf, hr⟩
  · rw [State.writeReg_frame, hr]
    exact ⟨h.build, h.memory, h.engine, h.aead, h.record⟩
  · rw [hr]
    exact ⟨h.build, h.memory, h.engine, h.aead, h.record.1, fun hfat => absurd hfat (by simp [hf])⟩

theorem State.Inv.hostWrite {s t : State} {off : Nat} {size : Size} {d : Word} {strobe : BitVec 4} (h : s.Inv)
    (hw : s.hostWrite off size d strobe = some t) : t.Inv := by
  rcases State.hostWrite_some hw with ⟨-, rfl | ⟨r, -, rfl⟩⟩ | ⟨-, ⟨-, -, hb⟩, rfl⟩
  · exact h
  · exact h.writeReg d r
  · have hm := State.writeLanes_ok (a := off - s.build.mbufBase) (k := 0) d strobe h.memory hb
    obtain ⟨⟨m, hl⟩, -⟩ := State.writeLanes_spec (off - s.build.mbufBase) d strobe size.bytes s 0
    rw [hl] at hm ⊢
    exact ⟨h.build, hm, h.engine, h.aead, h.record⟩

theorem State.Inv.perform {s : State} (h : s.Inv) (x : HostTxn) : (s.perform x).Inv := by
  obtain ⟨u, r, hp, rfl | ⟨off, size, d, strobe, -, hw⟩⟩ := s.perform_cases x
  · rw [hp]; exact h.queue _ _ _
  · rw [hp]; exact (h.hostWrite hw).queue _ _ _

theorem State.Inv.duringCommand {s : State} (h : s.Inv) (x : HostTxn) : (s.duringCommand x).Inv := by
  rw [State.duringCommand]
  split
  · exact h.perform x
  · exact h.queue _ _ _

/-- A legal build with memory in canonical form and every register at its reset value. -/
theorem State.Inv.of_reset {s : State} (hb : s.build.wf) {m : List Host.Cell} (hm : memoryOk s.build.mbufBytes m)
    (n k : Nat) : { s.resetRegisters with mbuf := m, powerOns := n, aborts := k }.Inv := by
  refine ⟨hb, hm, ?_, ?_, ?_⟩
  · exact (by decide : engineOk State.reset.ev State.reset.eng)
  · exact (by decide : aeadOk State.reset.av State.reset.ak State.reset.ts State.reset.authFail)
  · exact (by decide : recordOk State.reset.fatal State.reset.err State.reset.errcmd State.reset.running)

theorem State.Inv.resetRegisters {s : State} (h : s.Inv) : s.resetRegisters.Inv := .of_reset h.build h.memory _ _

theorem State.Inv.powerOn {s : State} (h : s.Inv) : s.powerOn.Inv :=
  .of_reset h.build ⟨.nil, fun _ hc => absurd hc (List.not_mem_nil)⟩ _ _

theorem State.Inv.abort {s : State} (h : s.Inv) (a n : Nat) : (s.abort a n).Inv :=
  .of_reset h.build (State.abort_ok a n h.memory.1 h.memory.2) s.powerOns (s.aborts + 1)

theorem State.Inv.abortCommand {s : State} (h : s.Inv) (w : Word) : (s.abortCommand w).Inv := by
  rw [State.abortCommand]
  split <;> exact h.abort _ _

theorem State.Inv.busyStep {s t : State} {w : Word} (h : s.Inv) (hx : s.busyStep w = .next t) : t.Inv := by
  rw [State.busyStep] at hx
  split at hx
  · cases hx; exact (h.queue _ _ _).duringCommand _
  · cases hx; exact (h.queue _ _ _).abortCommand w
  · cases hx; exact ((h.queue _ _ _).abortCommand w).powerOn
  · exact (h.queue s.held _ s.resp).issue hx
  · exact h.issue hx
  · exact h.issue hx

theorem State.Inv.idleStep {s t : State} (h : s.Inv) (hx : s.idleStep = .next t) : t.Inv := by
  rw [State.idleStep] at hx
  split at hx <;> cases hx
  · exact (h.queue none s.host s.resp).perform _
  · exact h
  · exact (h.queue s.held _ s.resp).perform _
  · exact h.queue _ _ _
  · exact (h.queue s.held _ s.resp).resetRegisters
  · exact (h.queue s.held _ s.resp).powerOn

/-- Settles O59: each part of the invariant is a fact about the reset state's own values. -/
theorem invariantAfterReset : Obligations.InvariantAfterReset :=
  ⟨by decide, by decide, by decide, by decide, by decide⟩

/-- Settles O60: the running command, what comes before its end, and the events of an idle block. -/
theorem everyStepKeepsTheInvariant : Obligations.EveryStepKeepsTheInvariant := by
  intro s t h hx
  have h' := h.queue s.held s.host none
  cases hr : s.running with
  | some w => exact h'.busyStep ((step_busy hr).symm.trans hx)
  | none => exact h'.idleStep ((step_idle hr).symm.trans hx)

end Sys2Proof.Machine

/-! PROOFS. What no command writes (10_state.md rules R30 to R53). -/

namespace Sys2Proof.Machine

/-- A command that answers was dropped, gave a fatal error, or had its effect. -/
theorem exec_cases {i : Instr} {s t : State} (h : exec i s = .next t) :
    t = s.drop ∨ (∃ c, t = (s.raiseFatal c (encode i)).complete) ∨ t = (s.effectOf i).complete := by
  rw [exec_eq_command] at h
  obtain ⟨-, hc⟩ | ⟨-, c, -, hc⟩ | ⟨-, -, hc⟩ := s.command_cases (encode i) (s.errorOf i) (·.effectOf i) <;>
    cases hc.symm.trans h
  · exact .inl rfl
  · exact .inr (.inl ⟨c, rfl⟩)
  · exact .inr (.inr rfl)

/-- Settles O39: neither dropping, nor fatal entry, nor an effect, nor completion writes any of these fields. -/
theorem commandsKeepTheArguments : Obligations.CommandsKeepTheArguments := by
  intro i s t h
  obtain rfl | ⟨c, rfl⟩ | rfl := exec_cases h
  · simp
  · simp
  · simp

/-- Who writes the contexts, of the effects. -/
theorem State.effectOf_contexts (s : State) (i : Instr) :
    ((∀ r n, i ≠ .setup r n) →
      (s.effectOf i).eng.r = s.eng.r ∧ (s.effectOf i).eng.nv = s.eng.nv ∧ (s.effectOf i).ev = s.ev) ∧
    ((∀ r n, i ≠ .setup r n) → i ≠ .crypt → i ≠ .block → i ≠ .setctr → (∀ n, i ≠ .setnonce n) →
      (s.effectOf i).eng = s.eng) ∧
    ((∀ k, i ≠ .aeadInit k) → (s.effectOf i).ak = s.ak ∧ (s.effectOf i).ts = s.ts ∧ (s.effectOf i).av = s.av) := by
  cases i with
  | setup rnd nlen => simp [State.effectOf]
  | crypt =>
    have hf := xks_follows s.eng (s.memRead s.src.val s.len.val)
    simp [State.effectOf, hf.r, hf.nv]
  | block | setctr => simp [State.effectOf, State.blockEffect, State.setctrEffect]
  | setnonce nlen => simp [State.effectOf, State.setnonceEffect]
  | aeadInit tsz => simp [State.effectOf]
  | nop | perm | hchacha | oneshot | aeadSeal | aeadOpen => simp [State.effectOf]

/-- Settles O40: of the effects only these commands' write the contexts; the rest of the frame writes none. -/
theorem onlyTheirCommandsWriteTheContexts : Obligations.OnlyTheirCommandsWriteTheContexts := by
  intro i s t h
  obtain rfl | ⟨c, rfl⟩ | rfl := exec_cases h
  · simp
  · simp
  · exact s.effectOf_contexts i

/-- Who writes the results, of the effects. -/
theorem State.effectOf_results (s : State) (i : Instr) :
    (i ≠ .block → (∀ r f, i ≠ .perm r f) → (s.effectOf i).blk = s.blk) ∧
    (i ≠ .hchacha → (s.effectOf i).subkey = s.subkey) ∧
    ((∀ n, i ≠ .aeadSeal n) → (∀ n, i ≠ .aeadOpen n) →
      (s.effectOf i).tag = s.tag ∧ (s.effectOf i).authFail = s.authFail) := by
  cases i <;> simp [State.effectOf]

/-- Settles O41: of the effects only these commands' write the results; the rest of the frame writes none. -/
theorem onlyTheirCommandsWriteTheResults : Obligations.OnlyTheirCommandsWriteTheResults := by
  intro i s t h
  obtain rfl | ⟨c, rfl⟩ | rfl := exec_cases h
  · simp
  · simp
  · exact s.effectOf_results i

/-- Settles O42: an effect writes MBUF, if at all, with one string at DST that is no longer than the region. -/
theorem commandsWriteOnlyTheirRegion : Obligations.CommandsWriteOnlyTheirRegion := by
  intro i s t h a ha
  obtain rfl | ⟨c, rfl⟩ | rfl := exec_cases h
  · rfl
  · rfl
  · rcases s.effectOf_mbuf_cases i with hm | ⟨-, B, hB, hm⟩
    · simp [State.mbufByte, hm]
    · exact State.mbufByte_memWrite_outside (s := s) hm (by simp) (by omega)

end Sys2Proof.Machine

/-! PROOFS. The fatal state (60_exceptions.md rules R305 and R306, 70_reset_and_hazards.md rule R354). -/

namespace Sys2Proof.Machine

/-! ### Host accesses and FATAL -/

/-- Every register but CMD takes a write whatever FATAL is. -/
theorem State.writeReg_fatal (s : State) (d : Word) {r : Reg} (h : r ≠ .cmd) :
    State.writeReg { s with fatal := true } d r = { s.writeReg d r with fatal := true } := by
  cases r with
  | cmd => exact absurd rfl h
  | status => rw [State.writeReg, State.writeReg]; split <;> rfl
  | pair p hi => cases p <;> rfl
  | _ => rfl

theorem State.writeLanes_fatal (s : State) (a : Nat) (d : Word) (strobe : BitVec 4) (n k : Nat) :
    State.writeLanes { s with fatal := true } a d strobe n k
      = { s.writeLanes a d strobe n k with fatal := true } := by
  induction n generalizing s k with
  | zero => rfl
  | succ n ih => rw [State.writeLanes, State.writeLanes, ← ih]; split <;> rfl

theorem regAccess_eq_some {off : Nat} {size : Size} {r : Reg} :
    regAccess off size = some r ↔ size = .word ∧ r.offset = off := by
  unfold regAccess
  split <;> simp_all [regAt_eq_some]

/-- A write at any offset but CMD's does what it does with FATAL = 0. -/
theorem State.hostWrite_fatal (s : State) {off : Nat} (size : Size) (d : Word) (strobe : BitVec 4)
    (h : off ≠ 0x004) :
    State.hostWrite { s with fatal := true } off size d strobe
      = (s.hostWrite off size d strobe).map fun t => { t with fatal := true } := by
  unfold State.hostWrite
  split
  · cases hr : regAccess off size with
    | none => rfl
    | some r =>
      have hcmd : r ≠ .cmd := by rintro rfl; exact h (regAccess_eq_some.1 hr).2.symm
      simp only [s.writeReg_fatal d hcmd]
      split
      · simp only [Option.map_some]; split <;> rfl
      · rfl
  · by_cases ha : s.mbufAccess off size
    · rw [if_pos ha, if_pos ha, State.writeLanes_fatal]; rfl
    · rw [if_neg ha, if_neg ha]; rfl

/-- A read at any offset but that of STATUS gives what it gives with FATAL = 0. -/
theorem State.hostRead_fatal (s : State) {off : Nat} (size : Size) (h : off ≠ 0x008) :
    State.hostRead { s with fatal := true } off size = s.hostRead off size := by
  unfold State.hostRead
  split
  · cases hr : regAccess off size with
    | none => rfl
    | some r =>
      have hstatus : r ≠ .status := by rintro rfl; exact h (regAccess_eq_some.1 hr).2.symm
      cases r with
      | status => exact absurd rfl hstatus
      | pair p hi => cases p <;> rfl
      | _ => rfl
  · rfl

/-- Settles O10: the common frame drops a command, a write of CMD starts none, and no other access looks at FATAL. -/
theorem commandsAreDroppedWhileFatal : Obligations.CommandsAreDroppedWhileFatal := by
  refine ⟨fun i s hf => ?dropped, fun s d hf => ?cmd, fun s off size d strobe h => ?writes,
    fun s off size h => ?reads⟩
  case dropped => rw [exec_eq_command, State.command_fatal hf]; rfl
  case cmd =>
    refine (s.hostWrite_register .cmd d (Reg.offset_lt _)).trans (congrArg some ?_)
    rw [State.writeReg, State.issueCommand, if_pos hf]
  case writes => exact (s.hostWrite_fatal size d strobe h).symm
  case reads => exact s.hostRead_fatal size h

/-! ### Leaving it -/

/-- A host write leaves the error record, and while FATAL = 1 it starts no command. -/
theorem State.hostWrite_record {s t : State} {off : Nat} {size : Size} {d : Word} {strobe : BitVec 4}
    (hw : s.hostWrite off size d strobe = some t) :
    t.fatal = s.fatal ∧ t.err = s.err ∧ t.errcmd = s.errcmd ∧ (s.fatal = true → t.running = s.running) := by
  rcases State.hostWrite_some hw with ⟨-, rfl | ⟨r, -, rfl⟩⟩ | ⟨-, -, rfl⟩
  · exact ⟨rfl, rfl, rfl, fun _ => rfl⟩
  · have hrun : s.fatal = true → (s.writeReg d r).running = s.running := fun hf =>
      (s.writeReg_running d r).resolve_right fun ⟨_, hf', _⟩ => by simp [hf] at hf'
    refine ⟨?_, ?_, ?_, hrun⟩ <;> rw [State.writeReg_frame]
  · obtain ⟨⟨m, hl⟩, -⟩ := State.writeLanes_spec (off - s.build.mbufBase) d strobe size.bytes s 0
    rw [hl]
    exact ⟨rfl, rfl, rfl, fun _ => rfl⟩

theorem State.perform_record (s : State) (x : HostTxn) :
    (s.perform x).fatal = s.fatal ∧ (s.perform x).err = s.err ∧ (s.perform x).errcmd = s.errcmd ∧
      (s.fatal = true → (s.perform x).running = s.running) := by
  obtain ⟨u, r, hp, rfl | ⟨off, size, d, strobe, -, hw⟩⟩ := s.perform_cases x
  · rw [hp]; exact ⟨rfl, rfl, rfl, fun _ => rfl⟩
  · have h := State.hostWrite_record hw
    rw [hp]; exact h

/-- Settles O11: of an idle block's events only reset and power-on write the error record. -/
theorem onlyResetLeavesTheFatalState : Obligations.OnlyResetLeavesTheFatalState := by
  have performed (u : State) (x : HostTxn) (hf : u.fatal = true) (hr : u.running = none) :
      (u.perform x).fatal = true ∧ (u.perform x).err = u.err ∧ (u.perform x).errcmd = u.errcmd ∧
        (u.perform x).running = none := by
    obtain ⟨hfatal, herr, herrcmd, hrun⟩ := u.perform_record x
    exact ⟨hfatal.trans hf, herr, herrcmd, (hrun hf).trans hr⟩
  intro s t hf hr h
  rw [step_idle hr, State.idleStep] at h
  split at h <;> cases h
  · exact .inl (performed _ _ hf hr)
  · exact .inl ⟨hf, rfl, rfl, hr⟩
  · exact .inl (performed _ _ hf hr)
  · exact .inl ⟨hf, rfl, rfl, hr⟩
  · exact .inr ⟨‹_›, _, .inl ‹_›⟩
  · exact .inr ⟨‹_›, _, .inr ‹_›⟩

/-! ### Polling in it -/

/-- With nothing held, an idle block performs the next transaction of the host. -/
theorem step_performs_next {s : State} {x : HostTxn} {rest : List HostEvent} (hr : s.running = none)
    (hh : s.held = none) (hx : s.host = .txn x :: rest) :
    step s = .next (State.perform { s with host := rest, resp := none } x) := by
  rw [step_idle hr, State.idleStep]
  simp only [hh, hx]

theorem State.perform_read {s : State} {off : Nat} {size : Size} {d : Word} (h : s.hostRead off size = some d) :
    s.perform (.read off size) = { s with resp := some (.readOkay d) } := by
  rw [State.perform, h]

theorem State.hostRead_status (s : State) : s.hostRead 0x008 .word = some s.statusWord :=
  s.hostRead_register .status (Reg.offset_lt _)

/-- A read of STATUS by an idle block changes the queue and the response alone. -/
theorem step_polls {s : State} {rest : List HostEvent} (hr : s.running = none) (hh : s.held = none)
    (hx : s.host = .txn (.read 0x008 .word) :: rest) :
    step s = .next { s with host := rest, resp := some (.readOkay s.statusWord) } := by
  rw [step_performs_next hr hh hx]
  exact congrArg _ (State.perform_read (State.hostRead_status _))

theorem State.statusWord_done (s : State) : s.statusWord.getLsbD 1 = s.done := by
  simp [State.statusWord, getElem_place]

theorem run_succ {s t : State} (n : Nat) (h : step s = .next t) :
    Sys2Proof.core.run (n + 1) s = Sys2Proof.core.run n t := by
  have h' : Sys2Proof.core.step s = .next t := h
  simp only [Host.Core.run, h']

/-- Settles O12: by induction on the number of reads, since each leaves STATUS as it is. -/
theorem pollingInTheFatalStateNeverEnds : Obligations.PollingInTheFatalStateNeverEnds := by
  intro n
  induction n with
  | zero =>
    intro s hf hd hr hh hx
    exact ⟨_, run_succ 0 (step_polls hr hh hx), rfl, hf, hd, s.statusWord_done.trans hd⟩
  | succ n ih =>
    intro s hf hd hr hh hx
    rw [run_succ (n + 1) (step_polls hr hh hx)]
    exact ih _ hf hd hr hh rfl

end Sys2Proof.Machine

/-! PROOFS. The host's accesses to registers and MBUF (10_state.md, 20_memory.md, 45_host_access.md). -/

namespace Sys2Proof.Machine

/-! ### The read values (rules R39 to R55) -/

/-- Settles O44: each offset of the map is that of its register, whose read value is by definition. -/
theorem registerMapReads : Obligations.RegisterMapReads := by
  intro s
  have read (r : Reg) : s.hostRead r.offset .word = some (s.readReg r) := s.hostRead_register r r.offset_lt
  have ctrl : s.ctrlWord = if s.ie then 1 else 0 := by
    rw [State.ctrlWord]; cases s.ie <;> rfl
  exact ⟨read .id, read .cmd, read .status, (read .ctrl).trans (congrArg some ctrl), read .errcmd, read .engcfg,
    read .aeadcfg, fun j h => read (.key ⟨j, h⟩), fun j h => read (.nonce ⟨j, h⟩),
    read (.pair .ctr false), read (.pair .ctr true), read (.pair .src false), read (.pair .src true),
    read (.pair .dst false), read (.pair .dst true), read (.pair .len false), read (.pair .len true),
    read (.pair .dlen false), read (.pair .dlen true), read (.pair .aad false), read (.pair .aad true),
    read (.pair .aadlen false), read (.pair .aadlen true), fun j h => read (.sin ⟨j, h⟩),
    fun j h => read (.state ⟨j, h⟩), fun j h => read (.blk ⟨j, h⟩), fun j h => read (.subkey ⟨j, h⟩),
    fun j h => read (.tag ⟨j, h⟩)⟩

/-! ### The fields of STATUS, CTRL, ENGCFG and AEADCFG (rules R40 to R44) -/

/-- A placed field, cut out again. -/
theorem extractLsb'_place_same {n lo : Nat} (v : BitVec n) (h : lo + n ≤ 32) :
    (place lo v).extractLsb' lo n = v := by
  ext i hi
  have hlo : ¬ lo + i < lo := by omega
  simp [place, hlo, show lo + i < 32 by omega, hi]

/-- Bits outside a placed field are 0. -/
theorem extractLsb'_place_disjoint {n lo : Nat} (v : BitVec n) {a m : Nat} (h : a + m ≤ lo ∨ lo + n ≤ a) :
    (place lo v).extractLsb' a m = 0 := by
  ext i hi
  by_cases hlo : a + i < lo
  · simp [place, hlo]
  · simp [place, hlo, BitVec.getLsbD_of_ge v (a + i - lo) (by omega)]

/-- The four bits of STATUS from bit 8 on are the code. -/
theorem State.statusWord_err (s : State) : s.statusWord.extractLsb' 8 4 = s.err.code := by
  simp (disch := decide) [State.statusWord, BitVec.extractLsb'_or, extractLsb'_place_same, extractLsb'_place_disjoint]

/-- Settles O45: each field of STATUS is placed at its bits, and no field lies at the reserved ones. -/
theorem statusFields : Obligations.StatusFields := by
  refine ⟨fun s c hc => ?codes, fun s => ⟨?busy, s.statusWord_done, ?authFail, ?fatal, ?bits4, s.statusWord_err,
    ?bits12, ?ev, ?av, ?bits18, ?off, ?bits30⟩⟩
  case codes => rw [s.statusWord_err, hc]; cases c <;> rfl
  case busy => simp [State.statusWord, getElem_place, State.busy]
  case authFail | fatal | ev | av => simp [State.statusWord, getElem_place]
  case bits4 | bits12 | bits18 | bits30 =>
    simp (disch := decide) [State.statusWord, BitVec.extractLsb'_or, extractLsb'_place_disjoint]
  case off =>
    have hoff : s.statusWord.extractLsb' 24 6 = BitVec.ofNat 6 s.eng.off.val := by
      simp (disch := decide) [State.statusWord, BitVec.extractLsb'_or, extractLsb'_place_same,
        extractLsb'_place_disjoint]
    rw [hoff, BitVec.toNat_ofNat, Nat.mod_eq_of_lt s.eng.off.isLt]

/-- Settles O46: each field is placed at its bits, and no field lies at the reserved ones. -/
theorem configurationFields : Obligations.ConfigurationFields := by
  intro s
  refine ⟨?ie, ?ctrlReserved, fun h => ?unconfigured, fun h => ⟨?rnd, ?nv, ?engcfgReserved⟩,
    ?ts, ?bits5, ?nonceSize, ?bits13⟩
  case ie => simp [State.ctrlWord, getElem_place]
  case ctrlReserved => simp (disch := decide) [State.ctrlWord, extractLsb'_place_disjoint]
  case unconfigured => simp [State.engcfgWord, h]
  case rnd | nv | engcfgReserved =>
    simp (disch := decide) [State.engcfgWord, h, BitVec.extractLsb'_or, extractLsb'_place_same,
      extractLsb'_place_disjoint]
  case ts | bits5 | nonceSize | bits13 =>
    simp (disch := decide) [State.aeadcfgWord, BitVec.extractLsb'_or, extractLsb'_place_same,
      extractLsb'_place_disjoint]

/-! ### Which accesses are errors (rules R80 to R85, R270 to R273) -/

/-- No register stands at an offset that the claims name as unmapped. -/
theorem Reg.mapped (r : Reg) : ¬ unmappedOffset r.offset := by
  cases r with
  | pair p hi => cases p <;> cases hi <;> decide
  | key i | nonce i | sin i | state i | blk i | subkey i | tag i =>
    simp only [Reg.offset, unmappedOffset]; omega
  | _ => decide

theorem regAccess_unmapped {off : Nat} (size : Size) (h : unmappedOffset off) : regAccess off size = none := by
  unfold regAccess
  split
  · exact regAt_eq_none.2 fun r hr => r.mapped (hr ▸ h)
  · rfl

theorem regAccess_narrow {off : Nat} {size : Size} (h : size ≠ .word) : regAccess off size = none := if_neg h

/-- An access in the register window that reaches no register is an ERROR. -/
theorem State.error_of_regAccess_none (s : State) {off : Nat} {size : Size} (d : Word) (strobe : BitVec 4)
    (h : off < 0x1000) (hr : regAccess off size = none) :
    s.hostRead off size = none ∧ s.hostWrite off size d strobe = none := by
  simp [State.hostRead, State.hostWrite, h, hr]

/-- A register that asks for all four strobes takes no write with fewer. -/
theorem State.hostWrite_partial (s : State) {r : Reg} (size : Size) (d : Word) {strobe : BitVec 4}
    (hs : strobe ≠ 0b1111#4) (hr : fullStrobeOffset r.offset) : s.hostWrite r.offset size d strobe = none := by
  cases ha : regAccess r.offset size with
  | none => exact (s.error_of_regAccess_none d strobe r.offset_lt ha).2
  | some q =>
    have hq : q = r := Reg.offset_injective (regAccess_eq_some.1 ha).2
    subst hq
    have hok : strobeOk q strobe = false := by
      unfold strobeOk
      rcases q.asks_full_strobe.2 hr with h | h <;> rw [h] <;> simpa using hs
    simp [State.hostWrite, q.offset_lt, ha, hok]

/-- Settles O47: no register is reached, or one that asks for more strobes, or no allowed place of MBUF. -/
theorem busErrors : Obligations.BusErrors := by
  refine ⟨fun s off size d strobe hoff => ⟨?noRegister, fun hs hfull => ?partialStrobe⟩,
    fun s off size d strobe hoff hbad => ?outside⟩
  case noRegister =>
    rintro (h | h)
    · exact s.error_of_regAccess_none d strobe hoff (regAccess_narrow h)
    · exact s.error_of_regAccess_none d strobe hoff (regAccess_unmapped size h)
  case partialStrobe =>
    by_cases ha : off % 4 = 0
    · have hf : fullStrobeOffset off := by
        unfold fullStrobeOffset keyOffset; omega
      obtain ⟨r, hr⟩ := Option.isSome_iff_exists.1 (mapped_of_fullStrobe hf)
      cases regAt_eq_some.1 hr
      exact s.hostWrite_partial size d hs hf
    · exact (s.error_of_regAccess_none d strobe hoff (regAccess_unmapped size (.inl ha))).2
  case outside =>
    have hsize : 0 < size.bytes := by cases size <;> decide
    have hacc : ¬ s.mbufAccess off size := by unfold State.mbufAccess; omega
    have hreg : ¬ inRegisters off := not_lt.2 hoff
    exact ⟨by rw [State.hostRead, if_neg hreg, if_neg hacc], by rw [State.hostWrite, if_neg hreg, if_neg hacc]⟩

/-! ### Argument registers (rules R45 to R49, R92) -/

/-- The registers that a host can write and read back. -/
def Reg.isOperand : Reg → Bool
  | .nonce _ | .pair _ _ | .sin _ => true
  | _ => false

theorem Reg.isOperand_iff (r : Reg) : r.isOperand = true ↔ readWriteOffset r.offset := by
  cases r with
  | pair p hi => cases p <;> cases hi <;> decide
  | key i | nonce i | sin i | state i | blk i | subkey i | tag i => revert i; decide
  | _ => decide

theorem exists_reg_of_readWrite {off : Nat} (h : readWriteOffset off) :
    ∃ r : Reg, r.isOperand = true ∧ r.offset = off := by
  obtain ⟨r, hr⟩ := Option.isSome_iff_exists.1 (mapped_of_fullStrobe (.inr (.inr (.inr h))))
  have ho := regAt_eq_some.1 hr
  exact ⟨r, r.isOperand_iff.2 (ho ▸ h), ho⟩

theorem State.pair_setPair (s : State) (n m : PairName) (p : Pair) :
    (s.setPair n p).pair m = if m = n then p else s.pair m := by
  cases n <;> cases m <;> rfl

theorem Pair.half_setHalf (p : Pair) (hi hi' : Bool) (d : Word) :
    (p.setHalf hi d).half hi' = if hi' = hi then d else p.half hi' := by
  cases hi <;> cases hi' <;> rfl

/-- Writing a pair leaves what every register but the pairs reads. -/
theorem State.readReg_setPair (s : State) (n : PairName) (p : Pair) {q : Reg} (h : ∀ m hi, q ≠ .pair m hi) :
    (s.setPair n p).readReg q = s.readReg q := by
  cases q with
  | pair m hi => exact absurd rfl (h m hi)
  | _ => cases n <;> rfl

/-- What the registers read after a write of one that can be read back. -/
theorem State.readReg_writeReg (s : State) (d : Word) {r : Reg} (h : r.isOperand = true) (q : Reg) :
    (s.writeReg d r).readReg q = if q = r then d else s.readReg q := by
  cases r with
  | nonce i =>
    cases q with
    | nonce j =>
      simp [State.readReg, State.writeReg, Vector.getElem_set, Fin.ext_iff, eq_comm]
    | pair m hi => cases m <;> rfl
    | _ => rfl
  | sin i =>
    cases q with
    | sin j => simp [State.readReg, State.writeReg, Vector.getElem_set, Fin.ext_iff, eq_comm]
    | pair m hi => cases m <;> rfl
    | _ => rfl
  | pair n hi =>
    cases q with
    | pair m hi' =>
      simp only [State.readReg, State.writeReg, State.pair_setPair, Reg.pair.injEq]
      by_cases hm : m = n
      · simp [hm, Pair.half_setHalf]
      · simp [hm]
    | _ => exact s.readReg_setPair n _ (by simp)
  | _ => cases h

/-- Settles O48: a register that is written reads the word, the others read as before. -/
theorem readWriteRegistersReadBack : Obligations.ReadWriteRegistersReadBack := by
  refine ⟨fun s off d h => ?_, fun s d j hj => s.hostWrite_register (.key ⟨j, hj⟩) d (Reg.offset_lt _)⟩
  obtain ⟨r, hr, rfl⟩ := exists_reg_of_readWrite h
  refine ⟨_, s.hostWrite_register r d r.offset_lt, ?readBack, fun off' size hoff hne => ?others, ?frame⟩
  case readBack =>
    rw [State.hostRead_register _ r r.offset_lt, s.readReg_writeReg d hr, if_pos rfl]
  case others =>
    simp only [State.hostRead, inRegisters, hoff, if_true]
    refine Option.map_congr fun q hq => ?_
    have hqr : q ≠ r := by rintro rfl; exact hne (regAccess_eq_some.1 hq).2.symm
    rw [s.readReg_writeReg d hr, if_neg hqr]
  case frame =>
    cases r with
    | nonce i | sin i => rfl
    | pair p hi => cases p <;> rfl
    | _ => cases hr

end Sys2Proof.Machine

/-! PROOFS. What register and MBUF accesses leave unchanged, and transactions beside a running command
(20_memory.md, 45_host_access.md, 60_exceptions.md). -/

namespace Sys2Proof.Machine

/-! ### Register writes (rules R40, R90, R271) -/

theorem State.writeReg_key (s : State) (d : Word) {r : Reg} (h : ¬ keyOffset r.offset) :
    (s.writeReg d r).key = s.key := by
  cases r with
  | key i => exact absurd (by simp only [Reg.offset, keyOffset]; omega) h
  | cmd => rw [State.writeReg, State.issueCommand]; split <;> rfl
  | status => rw [State.writeReg]; split <;> rfl
  | pair p hi => cases p <;> rfl
  | _ => rfl

theorem State.writeReg_operands (s : State) (d : Word) {r : Reg} (h : ¬ readWriteOffset r.offset) :
    (s.writeReg d r).nonce = s.nonce ∧ (s.writeReg d r).ctr = s.ctr ∧ (s.writeReg d r).src = s.src ∧
    (s.writeReg d r).dst = s.dst ∧ (s.writeReg d r).len = s.len ∧ (s.writeReg d r).dlen = s.dlen ∧
    (s.writeReg d r).aad = s.aad ∧ (s.writeReg d r).aadlen = s.aadlen ∧ (s.writeReg d r).sin = s.sin := by
  rw [← r.isOperand_iff] at h
  cases r with
  | nonce | pair | sin => exact absurd rfl h
  | cmd => rw [State.writeReg, State.issueCommand]; split <;> simp
  | status => rw [State.writeReg]; split <;> simp
  | _ => simp [State.writeReg]

theorem State.writeReg_ie (s : State) (d : Word) {r : Reg} (h : r.offset ≠ 0x00C) :
    (s.writeReg d r).ie = s.ie := by
  cases r with
  | ctrl => exact absurd rfl h
  | cmd => rw [State.writeReg, State.issueCommand]; split <;> rfl
  | status => rw [State.writeReg]; split <;> rfl
  | pair p hi => cases p <;> rfl
  | _ => rfl

theorem State.writeReg_done (s : State) (d : Word) {r : Reg} (h : r.offset ≠ 0x008) :
    (s.writeReg d r).done = s.done := by
  cases r with
  | status => exact absurd rfl h
  | cmd => rw [State.writeReg, State.issueCommand]; split <;> rfl
  | pair p hi => cases p <;> rfl
  | _ => rfl

/-- The read-only registers of the claims are those that ignore a write. -/
theorem exists_reg_of_readOnly {off : Nat} (h : readOnlyOffset off) :
    ∃ r : Reg, r.access = .ro ∧ r.offset = off := by
  have all : ∀ o, o < 0x1B0 → readOnlyOffset o → (regAt o).any (fun r => r.access == .ro) = true := by
    decide +kernel
  obtain ⟨r, hr, ha⟩ :=
    (Option.any_eq_true _ _).1 (all off (by unfold readOnlyOffset at h; omega) h)
  exact ⟨r, by simpa using ha, regAt_eq_some.1 hr⟩

theorem State.hostWrite_readOnly (s : State) {r : Reg} (h : r.access = .ro) (d : Word) (strobe : BitVec 4) :
    s.hostWrite r.offset .word d strobe = some s := by
  have hs : strobeOk r strobe = true := by rw [strobeOk, h]
  have hw : s.writeReg d r = s := by
    cases r with
    | id | errcmd | engcfg | aeadcfg | state | blk | subkey | tag => rfl
    | _ => cases h
  simp [State.hostWrite, r.offset_lt, regAccess, regAt_eq_some.2 rfl, hs, hw]

/-- A STATUS write acts only with lane 0 on and bit 1 set (rule R40). -/
theorem State.hostWrite_status_inert (s : State) {d : Word} {strobe : BitVec 4}
    (h : strobe.getLsbD 0 = false ∨ d.getLsbD 1 = false) : s.hostWrite Reg.status.offset .word d strobe = some s := by
  have hs : strobeOk .status strobe = true := rfl
  have hw : d.getLsbD 1 = false → s.writeReg d .status = s := fun hd => if_neg (by rw [hd]; decide)
  have ha : regAccess Reg.status.offset .word = some .status := regAccess_eq_some.2 ⟨rfl, rfl⟩
  simp only [State.hostWrite, inRegisters, Reg.offset_lt, ha, hs, if_true, true_and]
  split
  · rfl
  · rw [hw (h.resolve_left ‹_›)]

/-- Settles O49: a register write is the write of one register, which stands at one of the offsets named. -/
theorem registerWritesKeepTheContexts : Obligations.RegisterWritesKeepTheContexts := by
  refine ⟨fun s t off size d strobe hoff hw => ?frame, fun s off d strobe h => ?readOnly,
    fun s d strobe h => ?inert⟩
  case frame =>
    rcases State.hostWrite_cases hoff hw with rfl | ⟨r, rfl, rfl⟩
    · simp
    · refine ⟨?_, ?_, s.writeReg_key d, s.writeReg_operands d, s.writeReg_ie d, s.writeReg_done d, fun h => ?_⟩
      · rw [State.writeReg_frame]; simp
      · rw [State.writeReg_frame]; simp
      · exact (s.writeReg_running d r).resolve_right fun ⟨hr, _⟩ => h (by rw [hr]; rfl)
  case readOnly =>
    obtain ⟨r, hr, rfl⟩ := exists_reg_of_readOnly h
    exact s.hostWrite_readOnly hr d strobe
  case inert =>
    exact s.hostWrite_status_inert h

/-! ### MBUF accesses (rules R83, R272, R273) -/

/-- An aligned place inside MBUF is one that the bus allows, outside the register window. -/
theorem State.mbufAccess_of_aligned {s : State} {a : Nat} {size : Size} (hbase : 0x1000 ≤ s.build.mbufBase)
    (ha : a % size.bytes = 0) (hb : a + size.bytes ≤ s.build.mbufBytes) :
    ¬ inRegisters (s.build.mbufBase + a) ∧ s.mbufAccess (s.build.mbufBase + a) size := by
  unfold State.mbufAccess
  rw [Nat.add_sub_cancel_left]
  exact ⟨by unfold inRegisters; omega, by omega, ha, hb⟩

/-- Settles O50: the lanes of the write, from the access's own offset on. -/
theorem mbufWriteWritesItsLanes : Obligations.MbufWriteWritesItsLanes := by
  intro s a size d strobe hbase ha hb
  obtain ⟨hreg, hacc⟩ := State.mbufAccess_of_aligned hbase ha hb
  obtain ⟨⟨m, hm⟩, hbyte⟩ := State.writeLanes_spec a d strobe size.bytes s 0
  refine ⟨s.writeLanes a d strobe size.bytes 0, ?_, fun k hk => ?_, fun x hx => ?_, by rw [hm]⟩
  · rw [State.hostWrite, if_neg hreg, if_pos hacc, Nat.add_sub_cancel_left]
  · rw [hbyte, Nat.add_sub_cancel_left]
    simp [hk, wordByte]
  · rw [hbyte, if_neg (by omega)]

/-- Bit m of a word that is read from a byte string is a bit of byte m / 8. -/
theorem getLsbD_le32 (B : ByteString) (i m : Nat) :
    (le32 B i).getLsbD m =
      if m < 8 then (B.getD i 0).getLsbD m
      else if m - 8 < 8 then (B.getD (i + 1) 0).getLsbD (m - 8)
      else if m - 8 - 8 < 8 then (B.getD (i + 2) 0).getLsbD (m - 8 - 8)
      else (B.getD (i + 3) 0).getLsbD (m - 8 - 8 - 8) := by
  have bytes (b3 b2 b1 b0 : Byte) : (b3 ++ b2 ++ b1 ++ b0).getLsbD m =
      if m < 8 then b0.getLsbD m
      else if m - 8 < 8 then b1.getLsbD (m - 8)
      else if m - 8 - 8 < 8 then b2.getLsbD (m - 8 - 8) else b3.getLsbD (m - 8 - 8 - 8) := by
    simp only [BitVec.getLsbD_append]
  exact bytes ..

/-- Byte k of a word that is read from a byte string. -/
theorem wordByte_le32 (B : ByteString) (i : Nat) {k : Nat} (hk : k < 4) :
    wordByte (le32 B i) k = B.getD (i + k) 0 := by
  refine BitVec.eq_of_getLsbD_eq fun j hj => ?_
  have hbit : (wordByte (le32 B i) k).getLsbD j = (le32 B i).getLsbD (8 * k + j) := by simp [wordByte, hj]
  rw [hbit, getLsbD_le32]
  interval_cases k
  · simp only [Nat.mul_zero, Nat.zero_add, hj, if_true, Nat.add_zero]
  · rw [if_neg (by omega), if_pos (by omega), show 8 * 1 + j - 8 = j by omega]
  · rw [if_neg (by omega), if_neg (by omega), if_pos (by omega), show 8 * 2 + j - 8 - 8 = j by omega]
  · rw [if_neg (by omega), if_neg (by omega), if_neg (by omega), show 8 * 3 + j - 8 - 8 - 8 = j by omega]

/-- Settles O51: the word that is read has the bytes of the access, and zeros beyond them. -/
theorem mbufReadGivesItsBytes : Obligations.MbufReadGivesItsBytes := by
  intro s a size hbase ha hb
  obtain ⟨hreg, hacc⟩ := State.mbufAccess_of_aligned hbase ha hb
  refine ⟨s.mbufData a size, ?_, fun k hk => ?_⟩
  · rw [State.hostRead, if_neg hreg, if_pos hacc, Nat.add_sub_cancel_left]
  · refine (wordByte_le32 _ 0 hk).trans ?_
    rw [Nat.zero_add, List.getD_eq_getElem?_getD]
    split
    · rw [List.getElem?_eq_getElem (by simpa)]; simp
    · rw [List.getElem?_eq_none (by simp; omega)]; simp

/-! ### Performing a transaction (rules R81, R91, R300 (a)) -/

theorem State.perform_error {s : State} {x : HostTxn} (h : s.isError x = true) :
    s.perform x = { s with resp := some .error } := by
  cases x with
  | read off size => rw [State.perform, Option.isNone_iff_eq_none.1 h]
  | write off size d strobe => rw [State.perform, Option.isNone_iff_eq_none.1 h]

theorem State.perform_write {s t : State} {off : Nat} {size : Size} {d : Word} {strobe : BitVec 4}
    (h : s.hostWrite off size d strobe = some t) :
    s.perform (.write off size d strobe) = { t with resp := some .writeOkay } := by
  rw [State.perform, h]

theorem State.perform_resp (s : State) (x : HostTxn) : (s.perform x).resp.isSome = true := by
  obtain ⟨u, r, h, -⟩ := s.perform_cases x
  rw [h]; rfl

/-- An idle block performs the transaction that it holds before any event. -/
theorem step_performs_held {s : State} {x : HostTxn} (hr : s.running = none) (hh : s.held = some x) :
    step s = .next (State.perform { s with held := none, resp := none } x) := by
  rw [step_idle hr, State.idleStep]
  simp only [hh]

/-- Settles O52: the cases of `perform`, and those of a step of an idle block. -/
theorem readsAndErrorsHaveNoEffect : Obligations.ReadsAndErrorsHaveNoEffect := by
  refine ⟨fun s off size => ?reads, fun _ _ => State.perform_error, fun _ _ _ _ => State.perform_read,
    fun _ _ _ _ _ _ => State.perform_write,
    fun s off size d strobe => ⟨Option.isNone_iff_eq_none, Option.isNone_iff_eq_none⟩,
    fun s x hr => ⟨fun rest => step_performs_next hr, step_performs_held hr, fun hh hx => ?empty,
      fun rest hh hx => ?waits⟩⟩
  case reads =>
    obtain ⟨u, r, h, rfl | ⟨_, _, _, _, hw, -⟩⟩ := s.perform_cases (.read off size)
    · exact ⟨r, h⟩
    · cases hw
  case empty =>
    rw [step_idle hr, State.idleStep]
    simp only [hh, hx]
  case waits =>
    rw [step_idle hr, State.idleStep]
    simp only [hh, hx]

/-! ### Beside a running command (rule R91) -/

/-- A transaction that begins while a command runs, and none is held. -/
theorem step_during_command {s : State} {w : Word} {x : HostTxn} {rest : List HostEvent} (hr : s.running = some w)
    (hh : s.held = none) (hx : s.host = .txn x :: rest) :
    step s = .next (State.duringCommand { s with host := rest, resp := none } x) := by
  rw [step_busy hr, State.busyStep]
  simp only [hh, hx]

theorem State.duringCommand_at_once {s : State} {x : HostTxn} (h : s.errorAtOnce x = true ∨ isStatusRead x = true) :
    s.duringCommand x = s.perform x := by
  rw [State.duringCommand, if_pos (by simpa using h)]

theorem State.duringCommand_held {s : State} {x : HostTxn} (he : s.errorAtOnce x = false)
    (hs : isStatusRead x = false) : s.duringCommand x = { s with held := some x } := by
  rw [State.duringCommand, if_neg (by simp [he, hs])]

theorem isStatusRead_iff (x : HostTxn) :
    isStatusRead x = true ↔ x = .read 0x000 .word ∨ x = .read 0x008 .word := by
  cases x with
  | read off size => simp [isStatusRead]; tauto
  | write off size d strobe => simp [isStatusRead]

/-- STATUS while a command runs is STATUS before it, with BUSY. -/
theorem State.statusWord_busy {s : State} {w : Word} (h : s.running = some w) :
    s.statusWord = State.statusWord { s with running := none } ||| 1 := by
  have hbusy : place 0 (BitVec.ofBool s.busy) = 1 := by rw [State.busy, h]; rfl
  have hidle : place 0 (BitVec.ofBool (State.busy { s with running := none })) = 0#32 := rfl
  have move (a b c e f g k : Word) :
      1 ||| a ||| b ||| c ||| e ||| f ||| g ||| k = 0#32 ||| a ||| b ||| c ||| e ||| f ||| g ||| k ||| 1 := by
    rw [BitVec.zero_or]; ac_rfl
  rw [State.statusWord, State.statusWord, hbusy, hidle]
  exact move ..

/-- A command ends with BUSY = 0 and touches neither the held transaction nor what is to come. -/
theorem State.issue_queue {s t : State} {w : Word} (h : s.issue w = .next t) :
    t.running = none ∧ t.held = s.held ∧ t.host = s.host := by
  cases hd : decode w with
  | ok i =>
    obtain rfl | ⟨c, rfl⟩ | rfl := exec_cases ((State.issue_ok hd).symm.trans h)
    · simp
    · simp
    · simp
  | error e =>
    rw [State.issue_error hd] at h
    obtain ⟨-, hc⟩ | ⟨-, c, -, hc⟩ | ⟨-, -, hc⟩ := s.command_cases w (some .illegal) id <;> cases hc.symm.trans h
    · simp
    · simp
    · simp

/-- Settles O53: what is answered at once, what is held, and when what is held is performed. -/
theorem busyBlockHoldsTransactions : Obligations.BusyBlockHoldsTransactions := by
  refine ⟨fun s d rest hf hr hh hx => ?captures, fun s w rest hr => ⟨fun hh hx => ⟨?status, s.statusWord_busy hr⟩,
    fun hh hx => ?id, fun x hh hx he hp => ?error, fun x hh hx he h0 h8 => ?held, fun x later hf hh hx => ?after⟩⟩
  case captures =>
    rw [step_performs_next hr hh hx]
    have hw : State.hostWrite { s with host := rest, resp := none } Reg.cmd.offset .word d 0b1111#4
        = some { s with host := rest, resp := none, running := some d } := by
      rw [State.hostWrite_register _ .cmd d (Reg.offset_lt _), State.writeReg, State.issueCommand,
        if_neg (by simp [hf])]
    exact congrArg _ (State.perform_write hw)
  case status =>
    rw [step_during_command hr hh hx, State.duringCommand_at_once (.inr rfl)]
    exact congrArg _ (State.perform_read (State.hostRead_status _))
  case id =>
    rw [step_during_command hr hh hx, State.duringCommand_at_once (.inr rfl)]
    exact congrArg _ (State.perform_read (State.hostRead_register _ .id (Reg.offset_lt _)))
  case error =>
    have he' : State.isError { s with host := rest, resp := none } x = true :=
      (State.isError_congr (s := { s with host := rest, resp := none }) (t := s) rfl x).trans he
    rw [step_during_command hr hh hx, State.duringCommand_at_once (.inl ((State.errorAtOnce_iff _ x).2 ⟨he', hp⟩)),
      State.perform_error he']
  case held =>
    have hs : isStatusRead x = false := by
      simpa [h0, h8] using isStatusRead_iff x
    have he' : State.errorAtOnce { s with host := rest, resp := none } x = false := by
      rw [← Bool.not_eq_true, State.errorAtOnce_iff,
        State.isError_congr (s := { s with host := rest, resp := none }) (t := s) rfl x]
      rintro ⟨herr, hnow⟩
      rcases he with he | ⟨hp, hb⟩
      · simp [he] at herr
      · rcases hnow with hnp | hnow
        · exact hnp hp
        · simp [hb] at hnow
    rw [step_during_command hr hh hx, State.duringCommand_held he' hs]
  case after =>
    obtain ⟨u, hu⟩ := State.issue_answers { s with resp := none, host := later } w
    obtain ⟨hur, huh, hut⟩ := State.issue_queue hu
    have hstep : step s = State.issue { s with resp := none, host := later } w := by
      rcases hx with ⟨hx, rfl⟩ | hx | ⟨v, hx, rfl⟩
      · rw [step_executes_of_nil hr hx, ← hx]
      · rw [step_executes_of_wait hr hx]
      · rw [step_executes_of_held hr hh hx, ← hx]
    exact ⟨u, hstep.trans hu, hur, huh.trans hh, hut, step_performs_held hur (huh.trans hh), State.perform_resp _ x⟩

/-! ### Secrets (rule R310) and the registers after reset (rule R340) -/

/-- No register shows KEY, AK, KS or the key words of ST. -/
theorem State.readReg_secrets (s : State) (key : Vector Word 8) (ak : Vector Byte 32) (ks : Vector Byte 64)
    (st : Words16) (hst : ∀ i (h : i < 16), i < 4 ∨ 11 < i → st[i] = s.eng.s[i]) (r : Reg) :
    State.readReg { s with key := key, ak := ak, eng := { s.eng with ks := ks, s := st } } r = s.readReg r := by
  cases r with
  | state i =>
    simp only [State.readReg]
    split
    · rfl
    · exact hst i.val i.isLt (by omega)
  | pair p hi => cases p <;> rfl
  | _ => rfl

/-- Settles O54: a register read shows the register's read value, which shows no secret. -/
theorem secretsCannotBeReadFromRegisters : Obligations.SecretsCannotBeReadFromRegisters := by
  intro s t off size ⟨ht, hst⟩ hoff
  simp only [State.hostRead, inRegisters, hoff, if_true]
  refine Option.map_congr fun r _ => ?_
  rw [ht]
  exact (s.readReg_secrets t.key t.ak t.eng.ks t.eng.s hst r).symm

/-- The claims name every offset of the window at which no register is. -/
theorem exists_reg_of_mapped {off : Nat} (hoff : off < 0x1000) (h : ¬ unmappedOffset off) :
    ∃ r : Reg, r.offset = off := by
  have all : ∀ o, o < 0x1B0 → ¬ unmappedOffset o → (regAt o).isSome = true := by decide +kernel
  obtain ⟨r, hr⟩ := Option.isSome_iff_exists.1 (all off (by unfold unmappedOffset at h; omega) h)
  exact ⟨r, regAt_eq_some.1 hr⟩

/-- After reset ID and AEADCFG read their constants and every other register reads 0. -/
theorem State.readReg_reset (r : Reg) :
    State.reset.readReg r = if r = .id then 0x43433230 else if r = .aeadcfg then 0x00000C00 else 0 := by
  cases r with
  | pair p hi => cases p <;> cases hi <;> rfl
  | key i | nonce i | sin i | state i | blk i | subkey i | tag i => revert i; decide
  | _ => rfl

/-- Settles O55: an offset of the window is that of a register, or unmapped. -/
theorem registersAfterReset : Obligations.RegistersAfterReset := by
  intro off hoff
  split
  · exact (State.error_of_regAccess_none _ 0 0 hoff (regAccess_unmapped _ ‹_›)).1
  · obtain ⟨r, rfl⟩ := exists_reg_of_mapped hoff ‹_›
    have hid : r.offset = 0x000 ↔ r = .id := ⟨fun h => Reg.offset_injective h, fun h => by rw [h]; rfl⟩
    have hcfg : r.offset = 0x018 ↔ r = .aeadcfg := ⟨fun h => Reg.offset_injective h, fun h => by rw [h]; rfl⟩
    rw [State.hostRead_register _ r hoff, State.readReg_reset]
    simp only [hid, hcfg]
    split
    · rfl
    · split <;> rfl

end Sys2Proof.Machine

/-! PROOFS. Reset and loss of power (70_reset_and_hazards.md rules R340 to R342). -/

namespace Sys2Proof.Machine

/-- Settles O56: an idle block takes the reset event at once. -/
theorem resetWhileIdle : Obligations.ResetWhileIdle := by
  intro s rest hr hh hx
  have hstep : step s = .next (State.resetRegisters { s with host := rest, resp := none }) := by
    rw [step_idle hr, State.idleStep]
    simp only [hh, hx]
  exact ⟨_, hstep, fun _ => rfl, rfl, rfl⟩

/-- Settles O57: an idle block takes the power-on event at once, and no byte is written in the new power-on. -/
theorem powerOnWhileIdle : Obligations.PowerOnWhileIdle := by
  intro s rest hr hh hx
  have hstep : step s = .next (State.powerOn { s with host := rest, resp := none }) := by
    rw [step_idle hr, State.idleStep]
    simp only [hh, hx]
  exact ⟨_, hstep, fun _ => rfl, rfl⟩

/-- The written region of rule R341 is that of the claims. -/
theorem State.writtenRegion_eq (s : State) (i : Instr) :
    (s.writtenRegion i).2 = s.outLen i ∧ (s.outLen i = 0 ∨ (s.writtenRegion i).1 = s.dst.val) := by
  cases i with
  | aeadOpen nlen => exact ⟨s.openBodyLen_eq, .inr rfl⟩
  | crypt | oneshot | aeadSeal => exact ⟨rfl, .inr rfl⟩
  | _ => exact ⟨rfl, .inl rfl⟩

theorem State.abortCommand_eq (s : State) (w : Word) : ∃ a n, s.abortCommand w = s.abort a n := by
  rw [State.abortCommand]
  split <;> exact ⟨_, _, rfl⟩

/-- Settles O58: the region of the command that is cut short takes the free value, loss of power empties MBUF. -/
theorem resetDuringACommand : Obligations.ResetDuringACommand := by
  intro s w rest hr
  have hreset (hx : s.host = .reset :: rest) :
      step s = .next (State.abortCommand { s with host := rest, resp := none } w) := by
    rw [step_busy hr, State.busyStep]
    simp only [hx]
  refine ⟨fun i hd hx => ?legal, fun e hd hx => ?illegal, fun hx => ?power⟩
  case legal =>
    obtain ⟨hlen, hoff⟩ := s.writtenRegion_eq i
    have habort : step s = .next (State.abort { s with host := rest, resp := none } (s.writtenRegion i).1
        (s.writtenRegion i).2) := by
      rw [hreset hx, State.abortCommand, hd]; rfl
    refine ⟨_, habort, fun a ha => ?_, fun a h1 h2 h3 => ?_, rfl⟩
    · rw [State.mbufByte_abort, if_neg (by omega)]; rfl
    · rw [State.mbufByte_abort, if_pos ⟨by omega, by omega, h3⟩]
  case illegal =>
    have habort : step s = .next (State.abort { s with host := rest, resp := none } 0 0) := by
      rw [hreset hx, State.abortCommand, hd]
    refine ⟨_, habort, fun a => ?_, rfl⟩
    rw [State.mbufByte_abort, if_neg (by omega)]; rfl
  case power =>
    have hstep : step s = .next (State.powerOn (State.abortCommand { s with host := rest, resp := none } w)) := by
      rw [step_busy hr, State.busyStep]
      simp only [hx]
    obtain ⟨a, n, habort⟩ := State.abortCommand_eq { s with host := rest, resp := none } w
    rw [hstep, habort]
    exact ⟨_, rfl, fun _ => rfl, rfl⟩

end Sys2Proof.Machine

/-! PROOFS. The core and its commands (40_core.md). -/

namespace Sys2Proof.Machine

/-! ### Rounds (rule R142) -/

/-- A quarter-round leaves the words at other indices. -/
theorem getElem_qr_of_notMem (x : Words16) {a b c d i : Fin 16} (h : i ∉ [a, b, c, d]) :
    (qr x a b c d)[i] = x[i] := by
  obtain ⟨ha, hb, hc, hd⟩ : i ≠ a ∧ i ≠ b ∧ i ≠ c ∧ i ≠ d := by simpa using h
  rw [getElem_qr, if_neg hd, if_neg hc, if_neg hb, if_neg ha]

/-- `getElem_qr` at an index that is a number. -/
theorem getElem_qr_nat (x : Words16) (a b c d : Fin 16) (i : Nat) (hi : i < 16) :
    (qr x a b c d)[i] =
      if i = d.val then (quarterRound ⟨x[a], x[b], x[c], x[d]⟩).d
      else if i = c.val then (quarterRound ⟨x[a], x[b], x[c], x[d]⟩).c
      else if i = b.val then (quarterRound ⟨x[a], x[b], x[c], x[d]⟩).b
      else if i = a.val then (quarterRound ⟨x[a], x[b], x[c], x[d]⟩).a
      else x[i] := by
  simpa [Fin.ext_iff] using getElem_qr x a b c d ⟨i, hi⟩

/-- Each column of a column round is the quarter-round of that column of its input. -/
theorem columnRound_column (x : Words16) (j : Fin 4) :
    let q := quarterRound ⟨x[j.val], x[4 + j.val], x[8 + j.val], x[12 + j.val]⟩
    let y := columnRound x
    y[j.val] = q.a ∧ y[4 + j.val] = q.b ∧ y[8 + j.val] = q.c ∧ y[12 + j.val] = q.d := by
  match j with
  | 0 | 1 | 2 | 3 => simp [columnRound, getElem_qr_nat]

/-- Each diagonal of a diagonal round is the quarter-round of that diagonal of its input. -/
theorem diagonalRound_diagonal (x : Words16) (j : Fin 4) :
    let q := quarterRound
      ⟨x[j.val], x[4 + (j.val + 1) % 4], x[8 + (j.val + 2) % 4], x[12 + (j.val + 3) % 4]⟩
    let y := diagonalRound x
    y[j.val] = q.a ∧ y[4 + (j.val + 1) % 4] = q.b ∧ y[8 + (j.val + 2) % 4] = q.c
      ∧ y[12 + (j.val + 3) % 4] = q.d := by
  match j with
  | 0 | 1 | 2 | 3 => simp [diagonalRound, getElem_qr_nat]

/-- A quarter-round after one on other words gives these words as it does without. -/
theorem getElem_qr_qr_of_mem (x : Words16) {a b c d e f g h i : Fin 16} (hd : [a, b, c, d].Disjoint [e, f, g, h])
    (hi : i ∈ [e, f, g, h]) : (qr (qr x a b c d) e f g h)[i] = (qr x e f g h)[i] := by
  have keep (k : Fin 16) (hk : k ∈ [e, f, g, h]) : (qr x a b c d)[k] = x[k] :=
    getElem_qr_of_notMem x fun hk' => hd hk' hk
  rw [getElem_qr (qr x a b c d), getElem_qr x e, keep e (by simp), keep f (by simp), keep g (by simp),
    keep h (by simp), keep i hi]

/-- Quarter-rounds on disjoint words commute. -/
theorem qr_comm (x : Words16) {a b c d e f g h : Fin 16} (hd : [a, b, c, d].Disjoint [e, f, g, h]) :
    qr (qr x a b c d) e f g h = qr (qr x e f g h) a b c d := by
  refine Vector.ext fun k hk => ?_
  have eq (i : Fin 16) : (qr (qr x a b c d) e f g h)[i] = (qr (qr x e f g h) a b c d)[i] := by
    by_cases h1 : i ∈ [e, f, g, h]
    · rw [getElem_qr_qr_of_mem x hd h1, getElem_qr_of_notMem (qr x e f g h) fun h2 => hd h2 h1]
    · rw [getElem_qr_of_notMem (qr x a b c d) h1]
      by_cases h2 : i ∈ [a, b, c, d]
      · rw [getElem_qr_qr_of_mem x hd.symm h2]
      · rw [getElem_qr_of_notMem (qr x e f g h) h2, getElem_qr_of_notMem x h1, getElem_qr_of_notMem x h2]
  exact eq ⟨k, hk⟩

/-- Settles O14: the quarter-rounds of a round work on disjoint words, so each finds the words of the input. -/
theorem roundsAreColumnsAndDiagonals : Obligations.RoundsAreColumnsAndDiagonals := by
  refine ⟨fun x j => ⟨columnRound_column x j, diagonalRound_diagonal x j, rfl⟩, fun x a b c d e f g h hn => ?_⟩
  exact qr_comm x (List.disjoint_of_nodup_append (l₁ := [a, b, c, d]) (l₂ := [e, f, g, h]) hn)

/-! ### Double rounds (rule R143) -/

theorem doubleRounds_eq_iterate (n : Nat) (x : Words16) : doubleRounds n x = doubleRound^[n] x := by
  induction n generalizing x with
  | zero => rfl
  | succ n ih => rw [doubleRounds, ih, Function.iterate_succ_apply]

theorem permute_eq_iterate (x : Words16) (r : Nat) : permute x r = doubleRound^[r / 2] x := by
  rw [permute, doubleRounds_eq_iterate]

theorem getElem_blockWords (x : Words16) (r i : Nat) (hi : i < 16) :
    (blockWords x r)[i] = (doubleRound^[r / 2] x)[i] + x[i] := by
  rw [blockWords, Vector.getElem_zipWith, permute_eq_iterate]

theorem wordsOf_block (x : Words16) (r : Nat) : wordsOf 16 (block x r).toList = blockWords x r :=
  wordsOf_bytesOf _

/-! ### NOP and PERM (rules R148, R275) -/

/-- Settles O17: NOP has no check and no effect of its own. -/
theorem nopResult : Obligations.NopResult := fun _ hf => State.command_effect hf (encode .nop) id

theorem permResult_eq_iterate (rnd : Nat) (ff : Bool) (x : Words16) (i : Nat) (hi : i < 16) :
    (permResult rnd ff x)[i] = (doubleRound^[rnd / 2] x)[i] + (if ff = true then x[i] else 0) := by
  cases ff with
  | true => exact getElem_blockWords x rnd i hi
  | false => simp [permResult, permute_eq_iterate]

theorem exec_perm {rnd : Nat} (ff : Bool) {s : State} (hr : legalRounds rnd) (hf : s.fatal = false) :
    exec (.perm rnd ff) s = .next (s.permEffect rnd ff).complete := by
  rw [exec_eq_command, State.errorOf, permError, if_pos hr, State.command_effect hf]; rfl

/-- Settles O18: the words of `permResult`, with the double rounds as an iteration. -/
theorem execPermResult : Obligations.PermResult := fun rnd ff s hr hf =>
  ⟨_, exec_perm ff hr hf, fun i hi => permResult_eq_iterate rnd ff s.sin i hi, rfl⟩

/-- The zero state is a fixed point of the double round. -/
theorem iterate_doubleRound_zero (n : Nat) : doubleRound^[n] (Vector.replicate 16 0) = Vector.replicate 16 0 :=
  Function.iterate_fixed (by decide +kernel) n

/-- Settles O16: zeros are a fixed point of the double round, and adding zeros keeps them. -/
theorem permOfZerosIsZero : Obligations.PermOfZerosIsZero := by
  intro rnd ff s hr hf hz
  refine ⟨_, exec_perm ff hr hf, Vector.ext fun i hi => ?_⟩
  refine (permResult_eq_iterate rnd ff s.sin i hi).trans ?_
  rw [hz, iterate_doubleRound_zero]
  simp

/-! ### BLOCK (rules R144 to R146, R149) -/

/-- The counter goes up by one, with a silent wrap. -/
theorem counter_inc (x : Words16) (nv : Nat) : counter (inc x nv) nv = (counter x nv + 1) % period nv := by
  by_cases hnv : nv = 12
  · simp [inc, counter, period, hnv]
  · rw [inc_eq_setctr x hnv, counter_setctr x hnv (Nat.mod_lt _ (by decide)), period, if_neg hnv]

/-- The increment of a 32-bit counter leaves word 13 too. -/
theorem getElem_inc_narrow (x : Words16) {nv : Nat} (h : nv = 12) (i : Nat) (hi : i < 16) (h12 : i ≠ 12) :
    (inc x nv)[i] = x[i] := by
  rw [inc, if_pos h]
  simp [Ne.symm h12]

/-- Settles O19: BLK holds the words of the block, read back from its bytes, and the counter goes up by one. -/
theorem blockResult : Obligations.BlockResult := by
  intro s hev hf
  have hx : exec .block s = .next s.blockEffect.complete := by
    rw [exec_eq_command, State.errorOf, State.blockError, if_pos hev, State.command_effect hf]; rfl
  refine ⟨_, hx, fun i hi => ?_, counter_inc _ _, fun i hi h12 h13 => ?_, rfl⟩
  · have hblk : s.blockEffect.complete.blk = blockWords s.eng.s s.eng.r := wordsOf_block _ _
    simp only [hblk, getElem_blockWords]
  · by_cases h : i = 13
    · exact getElem_inc_narrow _ (h13 h) i hi h12
    · exact getElem_inc_of_ne _ _ i hi h12 h

end Sys2Proof.Machine

/-! PROOFS. Building an engine, and its counter and nonce fields (41_state_init.md, 42_hchacha.md, 43_engine.md rules
R195 and R196). -/

namespace Sys2Proof.Machine

/-! ### Words of the key and the nonce (rules R45 and R46) -/

/-- A word read from the beginning of a string is read from the string. -/
theorem le32_take (B : ByteString) {i n : Nat} (h : i + 4 ≤ n) : le32 (B.take n) i = le32 B i := by
  have key (k : Nat) (hk : k < n) : (B.take n).getD k 0 = B.getD k 0 := by
    rw [List.getD_eq_getElem?_getD, List.getD_eq_getElem?_getD, List.getElem?_take_of_lt hk]
  rw [le32, le32, key _ (by omega), key _ (by omega), key _ (by omega), key _ (by omega)]

theorem State.le32_keyBytes (s : State) (j : Nat) (hj : j < 8) : le32 s.keyBytes.toList (4 * j) = s.key[j] :=
  le32_bytesOf s.key j hj

theorem State.le32_nonceBytes (s : State) {n i : Nat} (j : Nat) (hj : j < 6) (hi : i = 4 * j) (hn : i + 4 ≤ n) :
    le32 (s.nonceBytes n) i = s.nonce[j] := by
  rw [State.nonceBytes, le32_take _ hn, hi, le32_bytesOf s.nonce j hj]

theorem State.take_nonceBytes (s : State) {n m : Nat} (h : n ≤ m) : (s.nonceBytes m).take n = s.nonceBytes n := by
  rw [State.nonceBytes, List.take_take, Nat.min_eq_left h, State.nonceBytes]

/-! ### SETUP (rules R160, R161, R165) -/

theorem exec_setup {rnd nlen : Nat} {s : State} (hr : legalRounds rnd) (hn : legalNonce nlen)
    (hf : s.fatal = false) : exec (.setup rnd nlen) s = .next (s.setupEffect rnd nlen).complete := by
  have hp : setupError rnd nlen = none := by
    rw [setupError, if_neg (not_not.2 hr), if_neg (not_not.2 hn)]
  rw [exec_eq_command, State.errorOf, hp, State.command_effect hf, State.effectOf]

/-- The layout that SETUP builds, by variant. -/
theorem State.init_nonceBytes (s : State) (K : ByteString) :
    init K (s.nonceBytes 8) 8 = layout K 0 0 s.nonce[0] s.nonce[1] ∧
    init K (s.nonceBytes 12) 12 = layout K 0 s.nonce[0] s.nonce[1] s.nonce[2] ∧
    init K (s.nonceBytes 24) 24 = layout (hchacha K (s.nonceBytes 16)) 0 0 s.nonce[4] s.nonce[5] := by
  refine ⟨?_, ?_, ?_⟩
  · rw [init, if_neg (by decide), if_pos rfl, s.le32_nonceBytes 0 (by decide) rfl (by decide),
      s.le32_nonceBytes 1 (by decide) rfl (by decide)]
  · rw [init, if_neg (by decide), if_neg (by decide), s.le32_nonceBytes 0 (by decide) rfl (by decide),
      s.le32_nonceBytes 1 (by decide) rfl (by decide), s.le32_nonceBytes 2 (by decide) rfl (by decide)]
  · rw [init, if_pos rfl, s.take_nonceBytes (by decide), s.le32_nonceBytes 4 (by decide) rfl (by decide),
      s.le32_nonceBytes 5 (by decide) rfl (by decide)]

/-- The words 4 to 11 of a layout are those of its key. -/
theorem getElem_layout_key (K : ByteString) (w12 w13 w14 w15 : Word) (j : Nat) (hj : j < 8) :
    (layout K w12 w13 w14 w15)[4 + j] = le32 K (4 * j) := by
  rw [getElem_layout, dif_pos (by omega), dif_neg (by omega), Nat.add_sub_cancel_left]

/-- The words of ST that SETUP builds from key and nonce. -/
theorem State.getElem_init (s : State) {nlen : Nat} (hn : legalNonce nlen) :
    let x := init s.keyBytes.toList (s.nonceBytes nlen) nlen
    (nlen ≠ 24 → ∀ j (_ : j < 8), x[4 + j] = s.key[j]) ∧ x[12] = 0 ∧
    (nlen = 8 → x[13] = 0 ∧ x[14] = s.nonce[0] ∧ x[15] = s.nonce[1]) ∧
    (nlen = 12 → x[13] = s.nonce[0] ∧ x[14] = s.nonce[1] ∧ x[15] = s.nonce[2]) ∧
    (nlen = 24 → x[13] = 0 ∧ x[14] = s.nonce[4] ∧ x[15] = s.nonce[5]) := by
  have key (w12 w13 w14 w15 : Word) (j : Nat) (hj : j < 8) :
      (layout s.keyBytes.toList w12 w13 w14 w15)[4 + j] = s.key[j] :=
    (getElem_layout_key _ _ _ _ _ j hj).trans (s.le32_keyBytes j hj)
  obtain ⟨h8, h12, h24⟩ := s.init_nonceBytes s.keyBytes.toList
  rcases hn with rfl | rfl | rfl
  · rw [h8]
    exact ⟨fun _ => key _ _ _ _, by simp [getElem_layout]⟩
  · rw [h12]
    exact ⟨fun _ => key _ _ _ _, by simp [getElem_layout]⟩
  · rw [h24]
    exact ⟨fun h => absurd rfl h, by simp [getElem_layout]⟩

/-- Settles O20: the words of the state that `init` builds. -/
theorem setupResult : Obligations.SetupResult := by
  intro rnd nlen s hr hn hf
  obtain ⟨c0, c1, c2, c3⟩ := init_constants s.keyBytes.toList (s.nonceBytes nlen) nlen
  obtain ⟨hkey, hcounter, h8, h12, h24⟩ := s.getElem_init hn
  exact ⟨_, exec_setup hr hn hf, c0, c1, c2, c3, hkey, hcounter, h8, h12, h24, rfl⟩

/-! ### HCHACHA (rules R180, R181) -/

theorem exec_hchacha {s : State} (hf : s.fatal = false) : exec .hchacha s = .next s.hchachaEffect.complete :=
  State.command_effect hf (encode .hchacha) State.hchachaEffect

/-- The words that HCHACHA permutes: constants, key, and the first four nonce words (rule R180). -/
def State.hchachaInput (s : State) : Words16 :=
  #v[0x61707865, 0x3320646e, 0x79622d32, 0x6b206574,
    s.key[0], s.key[1], s.key[2], s.key[3], s.key[4], s.key[5], s.key[6], s.key[7],
    s.nonce[0], s.nonce[1], s.nonce[2], s.nonce[3]]

/-- The state that HCHACHA builds from the bytes of KEY and NONCE is that of their words. -/
theorem State.layout_hchachaInput (s : State) :
    layout s.keyBytes.toList (le32 (s.nonceBytes 16) 0) (le32 (s.nonceBytes 16) 4) (le32 (s.nonceBytes 16) 8)
      (le32 (s.nonceBytes 16) 12) = s.hchachaInput := by
  rw [s.le32_nonceBytes 0 (by decide) rfl (by decide), s.le32_nonceBytes 1 (by decide) rfl (by decide),
    s.le32_nonceBytes 2 (by decide) rfl (by decide), s.le32_nonceBytes 3 (by decide) rfl (by decide)]
  refine Vector.ext fun i hi => ?_
  rw [getElem_layout]
  by_cases h12 : i < 12
  · rw [dif_pos h12]
    by_cases h4 : i < 4
    · rw [dif_pos h4]
      interval_cases i <;> rfl
    · have hi4 : 4 ≤ i := not_lt.1 h4
      rw [dif_neg h4, s.le32_keyBytes (i - 4) (by omega)]
      interval_cases i <;> rfl
  · have hi12 : 12 ≤ i := not_lt.1 h12
    rw [dif_neg h12]
    interval_cases i <;> rfl

/-- The subkey words of HCHACHA (rule R180). -/
theorem State.subkeyWords (s : State) {x : Words16} (hx : permute s.hchachaInput 20 = x) :
    wordsOf 8 (hchacha s.keyBytes.toList (s.nonceBytes 16))
      = #v[x[0], x[1], x[2], x[3], x[12], x[13], x[14], x[15]] := by
  unfold hchacha
  simp only [s.layout_hchachaInput, hx, wordsOf_bytesOf]

/-- Settles O21: twenty rounds are ten double rounds, and serialised words are read back. -/
theorem hchachaResult : Obligations.HchachaResult := by
  intro s hf x
  have hx : permute s.hchachaInput 20 = x := permute_eq_iterate _ 20
  rw [exec_hchacha hf, State.hchachaEffect, s.subkeyWords hx]
  rfl

/-- Settles O22: the key of SETUP's layout is the string whose words are SUBKEY. -/
theorem setupUsesTheHchachaSubkey : Obligations.SetupUsesTheHchachaSubkey := by
  intro rnd s hr hf
  refine ⟨_, _, exec_setup hr (.inr (.inr rfl)) hf, exec_hchacha hf, fun j hj => ?_⟩
  obtain ⟨-, -, h24⟩ := s.init_nonceBytes s.keyBytes.toList
  simp only [State.complete_eng, State.setupEffect, h24, getElem_layout_key _ _ _ _ _ j hj]
  simp [State.hchachaEffect, wordsOf]

/-! ### The counter and nonce fields (rules R163, R164, R195, R196) -/

theorem Pair.ofNat_val (p : Pair) : BitVec.ofNat 32 p.val = p.lo ∧ BitVec.ofNat 32 (p.val >>> 32) = p.hi := by
  have hlo := p.lo.isLt
  have hhi := p.hi.isLt
  constructor <;> refine BitVec.eq_of_toNat_eq ?_
  · rw [BitVec.toNat_ofNat, Pair.val]; omega
  · rw [BitVec.toNat_ofNat, Pair.val, Nat.shiftRight_eq_div_pow]; omega

theorem exec_setctr {s : State} (hf : s.fatal = false) (hev : s.ev = true) (hctr : s.eng.nv = 12 → s.ctr.hi = 0) :
    exec .setctr s = .next s.setctrEffect.complete := by
  have hp : s.setctrError = none := by
    rw [State.setctrError, if_neg (by simp [hev]), if_neg]
    rintro ⟨hnv, hle⟩
    exact s.ctr.le_val.1 hle (hctr hnv)
  rw [exec_eq_command, State.errorOf, hp, State.command_effect hf, State.effectOf]

/-- Settles O27: the two words of CTR are the low and the high half of its value. -/
theorem setctrResult : Obligations.SetctrResult := by
  intro s hf hev hctr
  obtain ⟨hlo, hhi⟩ := s.ctr.ofNat_val
  rw [exec_setctr hf hev hctr, State.setctrEffect, setctr, hlo, hhi]
  rfl

/-- Settles O28: the bytes of NONCE are read back as its words. -/
theorem setnonceResult : Obligations.SetnonceResult := by
  intro nlen s hf hev hnv hn
  have hp : s.setnonceError nlen = none := by
    rw [State.setnonceError, if_neg (by simp [hev]), if_neg (by omega)]
  have h0 := s.le32_nonceBytes (n := nlen) 0 (by decide) rfl (by omega)
  have h1 := s.le32_nonceBytes (n := nlen) 1 (by decide) rfl (by omega)
  have hwords : setnonce s.eng.s s.eng.nv (s.nonceBytes nlen) =
      if nlen = 12 then ((s.eng.s.set 13 s.nonce[0]).set 14 s.nonce[1]).set 15 s.nonce[2]
      else (s.eng.s.set 14 s.nonce[0]).set 15 s.nonce[1] := by
    rw [setnonce, hnv]
    split
    · have h2 := s.le32_nonceBytes (n := nlen) 2 (by decide) rfl (by omega)
      rw [h0, h1, h2]
    · rw [h0, h1]
  rw [exec_eq_command, State.errorOf, hp, State.command_effect hf, State.effectOf, State.setnonceEffect, hwords]
  rfl

end Sys2Proof.Machine

/-! PROOFS. The keystream of an engine, byte by byte, and the engine that a stream leaves (43_engine.md rules R191 and
R192). -/

namespace Sys2Proof.Machine

/-! ### The counter after several blocks (rules R145, R162, R163) -/

theorem counter_lt_period (x : Words16) (nv : Nat) : counter x nv < period nv := by
  have h12 := x[12].isLt
  have h13 := x[13].isLt
  unfold counter period
  split
  · exact h12
  · omega

theorem counter_setctr_of_lt (x : Words16) {nv v : Nat} (hv : v < period nv) : counter (setctr x nv v) nv = v := by
  by_cases hnv : nv = 12
  · rw [period, if_pos hnv] at hv
    simpa [counter, setctr, hnv] using hv
  · rw [period, if_neg hnv] at hv
    exact counter_setctr x hnv hv

theorem setctr_setctr (x : Words16) (nv v w : Nat) : setctr (setctr x nv v) nv w = setctr x nv w := by
  refine Vector.ext fun i hi => ?_
  unfold setctr
  split
  · simp only [Vector.getElem_set]; split_ifs <;> rfl
  · simp only [Vector.getElem_set]; split_ifs <;> rfl

/-- The increment sets the counter to its value plus one. -/
theorem inc_eq_setctr_counter (x : Words16) (nv : Nat) : inc x nv = setctr x nv ((counter x nv + 1) % period nv) := by
  by_cases hnv : nv = 12
  · simp only [inc, setctr, counter, period, hnv, if_true]
    congr 1
    refine BitVec.eq_of_toNat_eq ?_
    simp
  · rw [inc_eq_setctr x hnv, period, if_neg hnv]

theorem setctr_counter (x : Words16) (nv : Nat) : setctr x nv (counter x nv) = x := by
  by_cases hnv : nv = 12
  · simp [setctr, counter, hnv]
  · have hval : counter x nv = Pair.val ⟨x[12], x[13]⟩ := by simp [counter, Pair.val, hnv, Nat.add_comm]
    obtain ⟨hlo, hhi⟩ := Pair.ofNat_val ⟨x[12], x[13]⟩
    rw [setctr, if_neg hnv, hval, hlo, hhi]
    simp

/-- The state n blocks further. -/
def incs (nv n : Nat) (x : Words16) : Words16 := (fun y => inc y nv)^[n] x

theorem incs_eq_setctr (nv n : Nat) (x : Words16) : incs nv n x = setctr x nv ((counter x nv + n) % period nv) := by
  induction n with
  | zero => rw [Nat.add_zero, Nat.mod_eq_of_lt (counter_lt_period x nv), setctr_counter]; rfl
  | succ n ih =>
    have hpos : 0 < period nv := lt_of_le_of_lt (Nat.zero_le _) (counter_lt_period x nv)
    rw [incs, Function.iterate_succ_apply', ← incs, ih, inc_eq_setctr_counter, setctr_setctr,
      counter_setctr_of_lt x (Nat.mod_lt _ hpos), Nat.mod_add_mod, Nat.add_assoc]

theorem counter_incs (nv n : Nat) (x : Words16) : counter (incs nv n x) nv = (counter x nv + n) % period nv := by
  rw [incs_eq_setctr, counter_setctr_of_lt x (Nat.mod_lt _ (lt_of_le_of_lt (Nat.zero_le _) (counter_lt_period x nv)))]

theorem incs_incs (nv n m : Nat) (x : Words16) : incs nv n (incs nv m x) = incs nv (m + n) x := by
  rw [incs, incs, incs, Nat.add_comm, Function.iterate_add_apply]

/-! ### The keystream -/

/-- Byte p of the blocks made from a state on. -/
def blockByte (r nv : Nat) (x : Words16) (p : Nat) : Byte :=
  (block (incs nv (p / 64) x) r)[p % 64]'(Nat.mod_lt _ (by decide))

theorem blockByte_incs (r nv b : Nat) (x : Words16) (p : Nat) :
    blockByte r nv (incs nv b x) p = blockByte r nv x (64 * b + p) := by
  have hdiv : (64 * b + p) / 64 = b + p / 64 := by omega
  have hmod : (64 * b + p) % 64 = p % 64 := by omega
  simp only [blockByte, incs_incs, hdiv, hmod]

theorem blockByte_of_lt (r nv : Nat) (x : Words16) (b k : Nat) (hk : k < 64) :
    blockByte r nv x (64 * b + k) = (block (incs nv b x) r)[k] := by
  have hdiv : (64 * b + k) / 64 = b := by omega
  have hmod : (64 * b + k) % 64 = k := by omega
  simp only [blockByte, hdiv, hmod]

/-- Byte j of the keystream that an engine has before it: the rest of its buffer, then whole blocks. -/
def Engine.keyByte (e : Engine) (j : Nat) : Byte :=
  if h : 0 < e.off.val ∧ e.off.val + j < 64 then e.ks[e.off.val + j]
  else blockByte e.r e.nv e.s (e.off.val + j - 64 * ((e.off.val + 63) / 64))

/-- How many blocks an engine makes for n bytes. -/
def Engine.blocksFor (e : Engine) (n : Nat) : Nat := (e.off.val + n + 63) / 64 - (e.off.val + 63) / 64

/-- The engine that is left after n bytes. -/
def Engine.after (e : Engine) (n : Nat) : Engine :=
  { e with
    s := incs e.nv (e.blocksFor n) e.s
    ks := if 0 < e.blocksFor n ∧ (e.off.val + n) % 64 ≠ 0 then block (incs e.nv (e.blocksFor n - 1) e.s) e.r else e.ks
    off := Fin.ofNat 64 (e.off.val + n) }

/-- The keystream of m whole blocks. -/
def keyBlocks (r nv : Nat) : Nat → Words16 → ByteString
  | 0, _ => []
  | m + 1, x => (block x r).toList ++ keyBlocks r nv m (inc x nv)

@[simp] theorem length_keyBlocks (r nv m : Nat) (x : Words16) : (keyBlocks r nv m x).length = 64 * m := by
  induction m generalizing x with
  | zero => rfl
  | succ m ih => simp [keyBlocks, ih]; omega

theorem getElem_keyBlocks (r nv m : Nat) (x : Words16) (j : Nat) (hj : j < (keyBlocks r nv m x).length) :
    (keyBlocks r nv m x)[j] = blockByte r nv x j := by
  induction m generalizing x j with
  | zero => simp [keyBlocks] at hj
  | succ m ih =>
    simp only [keyBlocks]
    by_cases h : j < 64
    · rw [List.getElem_append_left (by simpa using h)]
      simpa [incs] using (blockByte_of_lt r nv x 0 j h).symm
    · rw [List.getElem_append_right (by simpa using h), ih]
      refine (blockByte_incs r nv 1 x _).trans (congrArg _ ?_)
      rw [Vector.length_toList]
      omega

theorem Engine.wholeBlocks_eq (e : Engine) (m : Nat) (S : ByteString) :
    e.wholeBlocks m S = (xorBytes S (keyBlocks e.r e.nv m e.s), { e with s := incs e.nv m e.s }) := by
  induction m generalizing e S with
  | zero => simp [Engine.wholeBlocks, keyBlocks, xorBytes, incs]
  | succ m ih => simp [Engine.wholeBlocks, ih, keyBlocks, xorBytes_append, generate, incs]

theorem getElem_xorBytes (S K : ByteString) (j : Nat) (h : j < (xorBytes S K).length) :
    (xorBytes S K)[j] = S[j]'(by simp at h; omega) ^^^ K[j]'(by simp at h; omega) := by
  simp [xorBytes]

/-! ### The stream (rule R191) -/

/-- The engine that `drain` leaves when the whole string fits the buffer, and when it empties it. -/
theorem Engine.drain_eq (e : Engine) (S : ByteString) (h : 0 < e.off.val) :
    e.drain S = (xorBytes (S.take (min S.length (64 - e.off.val))) (e.ks.toList.drop e.off.val),
      { e with off := Fin.ofNat 64 (e.off.val + min S.length (64 - e.off.val)) }) := by
  simp only [Engine.drain, h, if_true]

theorem Engine.tail_nil (e : Engine) : e.tail [] = ([], e) := rfl

/-- The last block of a keystream of whole blocks. -/
theorem keyBlocks_succ (r nv m : Nat) (x : Words16) :
    keyBlocks r nv (m + 1) x = keyBlocks r nv m x ++ (block (incs nv m x) r).toList := by
  induction m generalizing x with
  | zero => simp [keyBlocks, incs]
  | succ m ih => rw [keyBlocks, ih, keyBlocks, List.append_assoc]; rfl

theorem Engine.blocksFor_of_empty {e : Engine} (h : e.off.val = 0) (n : Nat) : e.blocksFor n = (n + 63) / 64 := by
  rw [Engine.blocksFor, h]; omega

/-- From an empty buffer a string is XORed with whole blocks, the last one cut. -/
theorem xks_of_empty (e : Engine) (S : ByteString) (h : e.off.val = 0) :
    xks e S = (xorBytes S (keyBlocks e.r e.nv ((S.length + 63) / 64) e.s), e.after S.length) := by
  have hd : e.drain S = ([], e) := by simp [Engine.drain, h]
  have hoff : e.off = 0 := Fin.ext h
  simp only [xks, hd, List.length_nil, List.drop_zero, Engine.wholeBlocks_eq, List.nil_append]
  by_cases hr : S.length % 64 = 0
  · have hnil : S.drop (64 * (S.length / 64)) = [] := List.drop_eq_nil_of_le (by omega)
    have hm : (S.length + 63) / 64 = S.length / 64 := by omega
    have hz : Fin.ofNat 64 S.length = 0 := Fin.ext hr
    rw [hnil, Engine.tail_nil]
    simp [Engine.after, Engine.blocksFor_of_empty h, hm, hoff, hr, hz, -Fin.ofNat_eq_cast]
  · have hm : (S.length + 63) / 64 = S.length / 64 + 1 := by omega
    have hpos : 0 < S.length - 64 * (S.length / 64) := by omega
    have hz : Fin.ofNat 64 (S.length - 64 * (S.length / 64)) = Fin.ofNat 64 S.length := Fin.ext (by simp; omega)
    simp [Engine.tail, hpos, Engine.after, Engine.blocksFor_of_empty h, hm, h, hr, hz, keyBlocks_succ,
      xorBytes_append', generate, incs, Function.iterate_succ_apply', -Fin.ofNat_eq_cast]

/-- The rest of a buffer that is not empty is used first; what it does not meet is streamed from the empty buffer. -/
theorem xks_of_buffered (e : Engine) (S : ByteString) (h : 0 < e.off.val) :
    xks e S = if S.length ≤ 64 - e.off.val
      then (xorBytes S (e.ks.toList.drop e.off.val), { e with off := Fin.ofNat 64 (e.off.val + S.length) })
      else
        let rest := xks { e with off := 0 } (S.drop (64 - e.off.val))
        (xorBytes (S.take (64 - e.off.val)) (e.ks.toList.drop e.off.val) ++ rest.1, rest.2) := by
  have hoff := e.off.isLt
  by_cases hn : S.length ≤ 64 - e.off.val
  · have hl : (xorBytes S (e.ks.toList.drop e.off.val)).length = S.length := by simp; omega
    simp only [xks, e.drain_eq S h, if_pos hn, Nat.min_eq_left hn, List.take_length, hl, List.drop_length]
    simp [Engine.wholeBlocks, Engine.tail, -Fin.ofNat_eq_cast]
  · have hk : min S.length (64 - e.off.val) = 64 - e.off.val := Nat.min_eq_right (by omega)
    have hz : Fin.ofNat 64 (e.off.val + (64 - e.off.val)) = 0 := Fin.ext (by simp)
    have hl : (xorBytes (S.take (64 - e.off.val)) (e.ks.toList.drop e.off.val)).length = 64 - e.off.val := by
      simp; omega
    simp only [if_neg hn]
    simp only [xks, e.drain_eq S h, hk, hz, hl]
    simp [Engine.drain]

/-- After the buffer is used up an engine goes on as one with an empty buffer does. -/
theorem Engine.blocksFor_of_buffered {e : Engine} (h : 0 < e.off.val) {n : Nat} (hn : 64 - e.off.val ≤ n) :
    e.blocksFor n = (n - (64 - e.off.val) + 63) / 64 := by
  have hoff := e.off.isLt
  unfold Engine.blocksFor
  omega

theorem Engine.after_of_buffered {e : Engine} (h : 0 < e.off.val) {n : Nat} (hn : 64 - e.off.val ≤ n) :
    Engine.after { e with off := 0 } (n - (64 - e.off.val)) = e.after n := by
  have hb : Engine.blocksFor { e with off := 0 } (n - (64 - e.off.val)) = e.blocksFor n := by
    rw [Engine.blocksFor_of_empty rfl, Engine.blocksFor_of_buffered h hn]
  have hmod : (n - (64 - e.off.val)) % 64 = (e.off.val + n) % 64 := by omega
  have hz : Fin.ofNat 64 (n - (64 - e.off.val)) = Fin.ofNat 64 (e.off.val + n) := Fin.ext hmod
  simp [Engine.after, hb, hmod, hz, -Fin.ofNat_eq_cast]

/-- The engine that a stream leaves. -/
theorem xks_engine (e : Engine) (S : ByteString) : (xks e S).2 = e.after S.length := by
  by_cases h : e.off.val = 0
  · rw [xks_of_empty e S h]
  · have hpos : 0 < e.off.val := Nat.pos_of_ne_zero h
    rw [xks_of_buffered e S hpos]
    split
    · have hoff := e.off.isLt
      have hb : e.blocksFor S.length = 0 := by unfold Engine.blocksFor; omega
      simp [Engine.after, hb, incs]
    · simp only [xks_of_empty { e with off := 0 } _ rfl, List.length_drop]
      exact Engine.after_of_buffered hpos (by omega)

theorem Engine.keyByte_of_empty {e : Engine} (h : e.off.val = 0) (j : Nat) :
    e.keyByte j = blockByte e.r e.nv e.s j := by
  simp [Engine.keyByte, h]

theorem Engine.keyByte_of_buffer {e : Engine} (h : 0 < e.off.val) {j : Nat} (hj : e.off.val + j < 64) :
    e.keyByte j = e.ks[e.off.val + j] := by
  rw [Engine.keyByte, dif_pos ⟨h, hj⟩]

theorem Engine.keyByte_of_buffered {e : Engine} (h : 0 < e.off.val) {j : Nat} (hj : 64 ≤ e.off.val + j) :
    e.keyByte j = blockByte e.r e.nv e.s (j - (64 - e.off.val)) := by
  have hoff := e.off.isLt
  rw [Engine.keyByte, dif_neg (by omega)]
  congr 1
  omega

/-- The bytes of a stream. -/
theorem getElem_xks (e : Engine) (S : ByteString) (j : Nat) (hj : j < S.length) :
    (xks e S).1[j]'(by simpa using hj) = S[j] ^^^ e.keyByte j := by
  have empty (f : Engine) (T : ByteString) (hf : f.off.val = 0) (k : Nat) (hk : k < T.length) :
      (xks f T).1[k]'(by simpa using hk) = T[k] ^^^ f.keyByte k := by
    simp only [xks_of_empty f T hf, getElem_xorBytes, getElem_keyBlocks, Engine.keyByte_of_empty hf]
  by_cases h : e.off.val = 0
  · exact empty e S h j hj
  · have hpos : 0 < e.off.val := Nat.pos_of_ne_zero h
    have hoff := e.off.isLt
    simp only [xks_of_buffered e S hpos]
    by_cases hn : S.length ≤ 64 - e.off.val
    · simp only [if_pos hn, getElem_xorBytes]
      rw [Engine.keyByte_of_buffer hpos (by omega)]
      simp
    · simp only [if_neg hn]
      by_cases hj' : e.off.val + j < 64
      · rw [List.getElem_append_left (by simp; omega)]
        simp only [getElem_xorBytes]
        rw [Engine.keyByte_of_buffer hpos hj']
        simp
      · have hl : (xorBytes (S.take (64 - e.off.val)) (e.ks.toList.drop e.off.val)).length = 64 - e.off.val := by
          simp; omega
        rw [List.getElem_append_right (by omega)]
        simp only [hl]
        rw [empty { e with off := 0 } _ rfl _ (by simp; omega), Engine.keyByte_of_empty rfl,
          Engine.keyByte_of_buffered hpos (by omega)]
        simp [show 64 - e.off.val + (j - (64 - e.off.val)) = j by omega]

/-! ### Going on with the engine that is left (rule R192) -/

theorem Engine.after_off (e : Engine) (n : Nat) : (e.after n).off.val = (e.off.val + n) % 64 := rfl

/-- The buffer holds the last block made, if a part of it is left. -/
theorem Engine.after_ks_of_made {e : Engine} {n : Nat} (h : 0 < e.blocksFor n) (hr : (e.off.val + n) % 64 ≠ 0) :
    (e.after n).ks = block (incs e.nv (e.blocksFor n - 1) e.s) e.r := if_pos ⟨h, hr⟩

theorem Engine.after_ks_of_kept {e : Engine} {n : Nat} (h : e.blocksFor n = 0 ∨ (e.off.val + n) % 64 = 0) :
    (e.after n).ks = e.ks := if_neg (by omega)

/-- Blocks made for one piece and then for the next are those for the whole. -/
theorem Engine.blocksFor_add (e : Engine) (n m : Nat) :
    e.blocksFor n + (e.after n).blocksFor m = e.blocksFor (n + m) := by
  unfold Engine.blocksFor
  rw [Engine.after_off]
  omega

/-- What an engine has before it after n bytes is what it had before, from byte n on. -/
theorem Engine.keyByte_after (e : Engine) (n j : Nat) : (e.after n).keyByte j = e.keyByte (n + j) := by
  have hoff := e.off.isLt
  have hval := e.after_off n
  have hb : e.blocksFor n = (e.off.val + n + 63) / 64 - (e.off.val + 63) / 64 := rfl
  by_cases h : 0 < (e.after n).off.val ∧ (e.after n).off.val + j < 64
  · rw [Engine.keyByte_of_buffer h.1 h.2]
    by_cases hmade : 0 < e.blocksFor n
    · have hks := Engine.after_ks_of_made hmade (by omega)
      simp only [hks]
      rw [Engine.keyByte, dif_neg (by omega), ← blockByte_of_lt _ _ _ _ _ h.2]
      congr 1
      omega
    · have hpos : 0 < e.off.val := by omega
      have hks := Engine.after_ks_of_kept (e := e) (n := n) (.inl (by omega))
      have hj : (e.after n).off.val + j = e.off.val + (n + j) := by omega
      rw [Engine.keyByte_of_buffer hpos (by omega)]
      simp only [hks, hj]
  · rw [Engine.keyByte, dif_neg h, Engine.keyByte, dif_neg (by omega)]
    refine (blockByte_incs ..).trans (congrArg _ ?_)
    omega

/-- If the whole ends inside a block, the buffer is that of the pieces. -/
theorem Engine.after_after_ks (e : Engine) (n m : Nat) (hr : (e.off.val + (n + m)) % 64 ≠ 0) :
    (e.after (n + m)).ks = ((e.after n).after m).ks := by
  have hoff := e.off.isLt
  have hval := e.after_off n
  have hadd := e.blocksFor_add n m
  have hb : (e.after n).blocksFor m = ((e.after n).off.val + m + 63) / 64 - ((e.after n).off.val + 63) / 64 := rfl
  by_cases hm : 0 < (e.after n).blocksFor m
  · rw [Engine.after_ks_of_made hm (by omega), Engine.after_ks_of_made (by omega) hr, ← hadd]
    refine congrArg (fun x => block x e.r) (Eq.trans ?_ (incs_incs e.nv _ (e.blocksFor n) e.s).symm)
    rw [Nat.add_sub_assoc hm]
  · have hkept := Engine.after_ks_of_kept (e := e.after n) (n := m) (.inl (by omega))
    have hsame : e.blocksFor (n + m) = e.blocksFor n := by omega
    rw [hkept]
    by_cases hn : 0 < e.blocksFor n
    · rw [Engine.after_ks_of_made hn (by omega), Engine.after_ks_of_made (by omega) hr, hsame]
    · rw [Engine.after_ks_of_kept (.inl (by omega)), Engine.after_ks_of_kept (.inl (by omega))]

/-- Settles O24: both ways leave the same blocks made and the same offset, and with these the same keystream. -/
theorem streamingInPieces : Obligations.StreamingInPieces := by
  intro e S T p q w
  have hp : p.2 = e.after S.length := xks_engine e S
  have hq : q.2 = (e.after S.length).after T.length := by rw [← hp]; exact xks_engine p.2 T
  have hw : w.2 = e.after (S.length + T.length) := by rw [← List.length_append]; exact xks_engine e (S ++ T)
  have hadd := e.blocksFor_add S.length T.length
  have hoff : (e.after (S.length + T.length)).off = ((e.after S.length).after T.length).off := by
    refine Fin.ext ?_
    simp only [Engine.after_off]
    omega
  rw [hq, hw]
  refine ⟨?bytes, ?state, hoff, rfl, rfl, fun hr => ?buffer⟩
  case bytes =>
    refine List.ext_getElem (by simp [p, q, w]) fun j h1 h2 => ?_
    have hj : j < S.length + T.length := by simpa [w] using h1
    refine (getElem_xks e (S ++ T) j (by simpa using hj)).trans ?_
    by_cases h : j < S.length
    · have hpj : j < p.1.length := by simpa [p] using h
      rw [List.getElem_append_left (bs := T) h, List.getElem_append_left (bs := q.1) hpj]
      exact (getElem_xks e S j h).symm
    · have hlen : p.1.length = S.length := length_xks e S
      rw [List.getElem_append_right (as := S) (by omega), List.getElem_append_right (as := p.1) (by omega)]
      simp only [hlen]
      refine Eq.trans ?_ (getElem_xks p.2 T (j - S.length) (by omega)).symm
      rw [hp, Engine.keyByte_after, Nat.add_sub_cancel' (by omega)]
  case state =>
    exact (congrArg (fun b => incs e.nv b e.s) hadd.symm).trans (incs_incs ..).symm
  case buffer => exact e.after_after_ks _ _ fun h0 => hr (Fin.ext h0)

/-! ### The position of a keystream byte (rules R191 and R192) -/

theorem block_incs (nv b r : Nat) (x : Words16) :
    block (incs nv b x) r = block (setctr x nv ((counter x nv + b) % period nv)) r := by
  rw [incs_eq_setctr]

/-- From an empty buffer byte j meets byte j mod 64 of the block at the counter plus j div 64. -/
theorem Engine.keyByte_eq_block {e : Engine} (h : e.off.val = 0) (j : Nat) :
    e.keyByte j = (block (setctr e.s e.nv ((counter e.s e.nv + j / 64) % period e.nv)) e.r)[j % 64]'
      (Nat.mod_lt _ (by decide)) := by
  simp only [Engine.keyByte_of_empty h, blockByte, block_incs]

/-- Settles O23: the keystream and the engine left, of an empty buffer and of one that is not. -/
theorem keystreamPosition : Obligations.KeystreamPosition := by
  refine ⟨fun e S h => ?empty, fun e S h => ?buffered⟩
  case empty =>
    have hoff : e.off.val = 0 := congrArg Fin.val h
    have hb : e.blocksFor S.length = (S.length + 63) / 64 := Engine.blocksFor_of_empty hoff _
    have hleft : (e.off.val + S.length) % 64 = S.length % 64 := by omega
    rw [xks_engine]
    refine ⟨fun j hj _ => ?_, length_xks e S, ?_, hleft, fun hr => ?_, fun hr => ?_⟩
    · exact (getElem_xks e S j hj).trans (congrArg _ (Engine.keyByte_eq_block hoff j))
    · rw [← hb]; exact counter_incs ..
    · exact Engine.after_ks_of_kept (.inr (hleft.trans hr))
    · have hlast : e.blocksFor S.length - 1 = S.length / 64 := by omega
      rw [Engine.after_ks_of_made (by omega) (by omega), hlast, block_incs]
  case buffered =>
    have hoff := e.off.isLt
    refine ⟨fun j hj hj' _ => ?_, length_xks e S, fun hn => ?_, fun hn => ?_⟩
    · exact (getElem_xks e S j hj).trans (congrArg _ (Engine.keyByte_of_buffer h (by omega)))
    · exact ⟨Fin.ofNat 64 (e.off.val + S.length), rfl, by rw [xks_of_buffered e S h, if_pos hn]⟩
    · have hl : (xorBytes (S.take (64 - e.off.val)) (e.ks.toList.drop e.off.val)).length = 64 - e.off.val := by
        simp; omega
      rw [xks_of_buffered e S h, if_neg (by omega)]
      exact ⟨List.drop_left' hl, rfl⟩

/-! ### Streams that agree -/

/-- Nothing is streamed, and the engine stays. -/
theorem xks_nil (e : Engine) : xks e [] = ([], e) := by
  have hb : e.blocksFor 0 = 0 := by unfold Engine.blocksFor; omega
  refine Prod.ext (List.length_eq_zero_iff.1 (length_xks e [])) ((xks_engine e []).trans ?_)
  simp [Engine.after, hb, incs]

/-- The contents of an empty buffer play no part in the bytes of a stream. -/
theorem xks_bytes_of_empty (e : Engine) (ks : Vector Byte 64) (S : ByteString) (h : e.off.val = 0) :
    (xks { e with ks := ks } S).1 = (xks e S).1 := by
  rw [xks_of_empty e S h, xks_of_empty { e with ks := ks } S h]

end Sys2Proof.Machine

/-! PROOFS. The streaming commands CRYPT and ONESHOT (43_engine.md rules R193 to R197). -/

namespace Sys2Proof.Machine

/-- Settles O25: CRYPT writes one string at DST. -/
theorem cryptResult : Obligations.CryptResult := by
  intro s hf hp d
  have hm : s.cryptEffect.complete.mbuf = s.memWrite s.dst.val d.1 := s.cryptEffect_mbuf
  have hl : d.1.length = s.len.val := by simp [d]
  refine ⟨_, exec_of_passes hf hp, fun j hj => State.mbufByte_memWrite_inside hm j hj, hl, fun a ha => ?_, rfl⟩
  exact State.mbufByte_memWrite_outside hm rfl (by omega)

/-- Settles O26: the checks on regions pass for empty ones, and a stream of nothing leaves engine and MBUF. -/
theorem emptyCryptChangesNothing : Obligations.EmptyCryptChangesNothing := by
  intro s hf hev hlen hdlen
  have hp : s.cryptError = none := by
    rw [State.cryptError, if_neg (by simp [hev]), if_neg (by rw [hlen]; omega), State.bufferError_eq]
    simp [hlen, hdlen]
  have hnil : s.memRead s.src.val s.len.val = [] := by rw [hlen]; rfl
  rw [exec_eq_command, State.errorOf, hp, State.command_effect hf, State.effectOf, State.cryptEffect_eq, hnil,
    xks_nil]
  rfl

/-! ### ONESHOT (rule R197) -/

theorem legalRounds_of_passes {s : State} {rnd nlen : Nat} (hp : s.Passes (.oneshot rnd nlen)) :
    legalRounds rnd ∧ legalNonce nlen := by
  have hr : ¬ (rnd ≠ 8 ∧ rnd ≠ 12 ∧ rnd ≠ 20) := hp .rounds
  have hn : ¬ (nlen ≠ 8 ∧ nlen ≠ 12 ∧ nlen ≠ 24) := hp .nonceSize
  unfold legalRounds legalNonce
  omega

/-- CTR fits the counter of the variant. -/
theorem ctr_lt_period_of_passes {s : State} {rnd nlen : Nat} (hp : s.Passes (.oneshot rnd nlen)) :
    s.ctr.val < period nlen := by
  have hc : ¬ (nlen = 12 ∧ s.ctr.hi ≠ 0) := hp .counter
  have hlo := s.ctr.lo.isLt
  have hhi := s.ctr.hi.isLt
  unfold period
  split
  · exact not_le.1 fun hle => hc ⟨‹_›, s.ctr.le_val.1 hle⟩
  · unfold Pair.val; omega

/-- The keystream of ONESHOT's transient engine starts at counter CTR. -/
theorem State.keyByte_oneshotEngine (s : State) {rnd nlen : Nat} (hc : s.ctr.val < period nlen) (j : Nat) :
    (s.oneshotEngine rnd nlen).keyByte j = (block (setctr (init s.keyBytes.toList (s.nonceBytes nlen) nlen) nlen
      ((s.ctr.val + j / 64) % period nlen)) rnd)[j % 64]'(Nat.mod_lt _ (by decide)) := by
  rw [Engine.keyByte_eq_block rfl]
  simp only [State.oneshotEngine, Engine.fresh, counter_setctr_of_lt _ hc, setctr_setctr]

theorem State.oneshotEffect_mbuf (s : State) (rnd nlen : Nat) : (s.oneshotEffect rnd nlen).complete.mbuf
    = s.memWrite s.dst.val (xks (s.oneshotEngine rnd nlen) (s.memRead s.src.val s.len.val)).1 := rfl

/-- Settles O29: ONESHOT writes one string at DST, the bytes of a stream from an empty buffer. -/
theorem oneshotResult : Obligations.OneshotResult := by
  intro rnd nlen s hf hp
  have hm := s.oneshotEffect_mbuf rnd nlen
  refine ⟨_, exec_of_passes hf hp, fun j hj => ?_, fun a ha => ?_, rfl⟩
  · have hjr : j < (s.memRead s.src.val s.len.val).length := by simpa using hj
    refine (State.mbufByte_memWrite_inside hm j (by simpa using hj)).trans ?_
    rw [getElem_xks _ _ j hjr, State.getElem_memRead, s.keyByte_oneshotEngine (ctr_lt_period_of_passes hp)]
  · exact State.mbufByte_memWrite_outside hm rfl (by simpa using ha)

/-- Settles O30: the second stream, with the same transient engine, reads what the first wrote and inverts it. -/
theorem oneshotTwiceRestores : Obligations.OneshotTwiceRestores := by
  intro rnd nlen s hf hp hds
  let t := (s.oneshotEffect rnd nlen).complete
  have hpt : t.Passes (.oneshot rnd nlen) := fun c hc => hp c (by cases c <;> exact hc)
  have hmt := s.oneshotEffect_mbuf rnd nlen
  have hmu := t.oneshotEffect_mbuf rnd nlen
  have hread : t.memRead s.src.val s.len.val
      = (xks (s.oneshotEngine rnd nlen) (s.memRead s.src.val s.len.val)).1 := by
    simpa [hds] using State.memRead_memWrite hmt
  have hback : (xks (t.oneshotEngine rnd nlen) (t.memRead t.src.val t.len.val)).1 = s.memRead s.src.val s.len.val :=
    (congrArg (fun B => (xks (s.oneshotEngine rnd nlen) B).1) hread).trans (xks_xks _ _)
  rw [hback] at hmu
  refine ⟨t, _, exec_of_passes hf hp, exec_of_passes hf hpt, fun a => ?_⟩
  by_cases ha : a < s.dst.val ∨ s.dst.val + s.len.val ≤ a
  · refine (State.mbufByte_memWrite_outside (s := t) hmu rfl (by rw [State.length_memRead]; exact ha)).trans ?_
    exact State.mbufByte_memWrite_outside hmt rfl (by simpa using ha)
  · obtain ⟨i, rfl⟩ := Nat.exists_eq_add_of_le (by omega : s.dst.val ≤ a)
    refine (State.mbufByte_memWrite_inside hmu i (by simp; omega)).trans ?_
    rw [State.getElem_memRead, hds]

/-- Settles O31: SETUP and SETCTR build ONESHOT's transient engine but for the contents of an empty buffer. -/
theorem setctrThenCryptIsOneshot : Obligations.SetctrThenCryptIsOneshot := by
  intro rnd nlen s hf hp
  obtain ⟨hr, hn⟩ := legalRounds_of_passes hp
  let t := (s.setupEffect rnd nlen).complete
  let u := t.setctrEffect.complete
  have hctr : nlen = 12 → s.ctr.hi = 0 := fun h => not_not.1 fun hhi => hp .counter ⟨h, hhi⟩
  have hpu : u.Passes .crypt := fun c hc => by
    cases c with
    | noError | illegal | rounds | nonceSize | tagSize | counter => exact hc
    | notConfigured => cases hc
    | length => exact hp .length hc
    | dstShort => exact hp .dstShort hc
    | range => exact hp .range hc
    | overlap => exact hp .overlap hc
  have heng : u.eng = { s.oneshotEngine rnd nlen with ks := s.eng.ks } := rfl
  refine ⟨t, u, _, _, exec_setup hr hn hf, exec_setctr hf rfl hctr, exec_of_passes hf hpu, exec_of_passes hf hp, ?_⟩
  have hbytes : (xks u.eng (u.memRead u.src.val u.len.val)).1
      = (xks (s.oneshotEngine rnd nlen) (s.memRead s.src.val s.len.val)).1 := by
    rw [heng]; exact xks_bytes_of_empty _ _ _ rfl
  exact u.cryptEffect_mbuf.trans (congrArg (s.memWrite s.dst.val) hbytes)

end Sys2Proof.Machine

/-! PROOFS. AEAD_INIT, the MAC input, Poly1305 and the tag comparison (44_aead.md rules R230 to R236). -/

namespace Sys2Proof.Machine

/-! ### AEAD_INIT (rule R236) -/

/-- AEADCFG shows a legal tag size beside NONCESIZE = 12. -/
theorem State.aeadcfgWord_toNat {s : State} (hav : s.av = true) (ht : s.ts ≤ 16) :
    s.aeadcfgWord.toNat = 0xC00 + s.ts := by
  rw [State.aeadcfgWord, if_pos hav]
  generalize s.ts = n at ht ⊢
  interval_cases n <;> rfl

/-- Settles O32: the key bytes are those of the key words. -/
theorem aeadInitResult : Obligations.AeadInitResult := by
  intro tsz s hf h1 h16
  have hp : s.errorOf (.aeadInit tsz) = none := if_pos ⟨h1, h16⟩
  have hx : exec (.aeadInit tsz) s = .next (s.aeadInitEffect tsz).complete := by
    rw [exec_eq_command, hp, State.command_effect hf, State.effectOf]
  exact ⟨_, hx, fun j hj => getElem_bytesOf s.key j hj, State.aeadcfgWord_toNat rfl h16, rfl⟩

/-! ### The MAC input (rule R232) -/

theorem le64_eq (v : Nat) : le64 v = (List.range 8).map fun k => BitVec.ofNat 8 (v / 2 ^ (8 * k)) := by
  refine List.ext_getElem (by simp [le64]) fun i h1 h2 => ?_
  simp [le64, leBytes, Nat.shiftRight_eq_div_pow]

theorem pad16_spec (n : Nat) : pad16 n < 16 ∧ (n + pad16 n) % 16 = 0 := by
  unfold pad16; omega

theorem length_macin (A C : ByteString) : (macin A C).length % 16 = 0 := by
  have hA := (pad16_spec A.length).2
  have hC := (pad16_spec C.length).2
  have hl : (macin A C).length = A.length + pad16 A.length + (C.length + pad16 C.length) + 16 := by
    unfold macin
    simp [zeros, le64]
    omega
  omega

/-! ### Poly1305 (rule R231) -/

theorem littleEndian_cons (b : Byte) (B : ByteString) :
    littleEndian (b :: B) = b.toNat + 2 ^ 8 * littleEndian B := by
  have shift (i : Nat) : ((b :: B).getD (i + 1) 0).toNat * 2 ^ (8 * (i + 1))
      = 2 ^ 8 * ((B.getD i 0).toNat * 2 ^ (8 * i)) := by
    rw [List.getD_cons_succ]; ring
  simp only [littleEndian, List.length_cons, List.range_succ_eq_map, List.map_cons, List.map_map, List.sum_cons,
    ← List.sum_map_mul_left, Function.comp_def, Nat.succ_eq_add_one, shift]
  simp

/-- The value of a byte string by Horner's rule is the sum of the rule. -/
theorem leValue_eq_littleEndian (B : ByteString) : leValue B = littleEndian B := by
  induction B with
  | nil => rfl
  | cons b B ih => rw [leValue, ih, littleEndian_cons]

/-- The accumulator, chunk by chunk. -/
theorem polyAccumulate_eq_foldl (r n acc : Nat) (M : ByteString) :
    polyAccumulate r n acc M = (List.range n).foldl
      (fun acc i => (acc + littleEndian ((M.drop (16 * i)).take 16 ++ [0x01#8])) * r % (2 ^ 130 - 5)) acc := by
  induction n generalizing acc M with
  | zero => rfl
  | succ n ih =>
    rw [polyAccumulate, ih, List.range_succ_eq_map, List.foldl_cons, List.foldl_map, leValue_eq_littleEndian]
    have chunk (i : Nat) : (M.drop 16).drop (16 * i) = M.drop (16 * (i + 1)) := by
      rw [List.drop_drop, Nat.mul_add, Nat.add_comm]
    simp only [chunk, Nat.mul_zero, List.drop_zero]
    rfl

/-- Settles O33: the padding and the lengths by arithmetic; the accumulator as a fold over the chunks. -/
theorem macInputIsWholeChunks : Obligations.MacInputIsWholeChunks := by
  refine ⟨fun A C => ⟨⟨pad16 A.length, pad16 C.length, (pad16_spec _).1, (pad16_spec _).1, (pad16_spec _).2,
    (pad16_spec _).2, ?_⟩, length_macin A C⟩, fun k M j hj => ?_⟩
  · rw [macin, le64_eq, le64_eq]; rfl
  · simp only [poly1305, poly1305Reference, polyAccumulate_eq_foldl, leValue_eq_littleEndian]
    simp [leBytes, Nat.shiftRight_eq_div_pow, clampMask]

/-! ### The tag comparison (rule R235) -/

theorem tagDiff_eq_zero {T X : ByteString} (h : T.length = X.length) : tagDiff T X = 0 ↔ T = X := by
  induction T generalizing X with
  | nil => cases X with
    | nil => simp [tagDiff]
    | cons x X => cases h
  | cons b T ih => cases X with
    | nil => cases h
    | cons x X =>
      have htail : tagDiff T X = 0 ↔ T = X := ih (by simpa using h)
      rw [tagDiff, List.cons.injEq, ← htail]
      exact BitVec.or_eq_zero_iff.trans (and_congr_left' BitVec.xor_eq_zero_iff)

/-- Settles O34: an OR of XORs is 0 exactly when each of them is. -/
theorem tagComparisonIsEquality : Obligations.TagComparisonIsEquality := by
  intro T X ts hT hX
  have hl : (T.take ts).length = (X.take ts).length := by simp; omega
  rw [tagEqual, beq_iff_eq, tagDiff_eq_zero hl]
  constructor
  · intro h j hj
    have := congrArg (·[j]?) h
    simpa [List.getElem?_take, hj] using this
  · intro h
    refine List.ext_getElem? fun j => ?_
    by_cases hj : j < ts
    · simp [hj, h j hj]
    · simp [hj]

end Sys2Proof.Machine

/-! PROOFS. SEAL and OPEN (44_aead.md rules R233 to R242). -/

namespace Sys2Proof.Machine

/-! ### Keystream and MAC of one key and nonce (rules R232, R233) -/

theorem setctr_narrow_mod (x : Words16) (v : Nat) : setctr x 12 (v % 2 ^ 32) = setctr x 12 v := by
  rw [setctr, setctr, if_pos rfl, if_pos rfl]
  congr 1
  refine BitVec.eq_of_toNat_eq ?_
  simp

theorem setctr_inc (x : Words16) (nv v : Nat) : setctr (inc x nv) nv v = setctr x nv v := by
  rw [inc_eq_setctr_counter, setctr_setctr]

theorem counter_init_narrow (K N : ByteString) : counter (init K N 12) 12 = 0 := by
  simp [counter, init, getElem_layout]

/-- The transient engine of SEAL and OPEN begins at counter 1. -/
theorem State.keyByte_aeadSetup (s : State) (j : Nat) :
    (aeadSetup s.ak.toList (s.nonceBytes 12)).1.keyByte j = s.aeadKeystream j := by
  have hstart : counter (inc (init s.ak.toList (s.nonceBytes 12) 12) 12) 12 = 1 := by
    rw [counter_inc, counter_init_narrow]; rfl
  rw [Engine.keyByte_eq_block rfl]
  simp only [aeadSetup, Engine.fresh, generate, State.aeadKeystream, hstart, setctr_inc, period, if_true,
    setctr_narrow_mod]

/-- The tag that SEAL writes and OPEN expects is the beginning of the MAC. -/
theorem State.expectedTag_eq (s : State) (C : ByteString) : s.expectedTag C = (s.aeadMac C).toList.take s.ts := rfl

theorem State.getElem_expectedTag (s : State) (C : ByteString) (j : Nat) (hj : j < s.ts) (h16 : j < 16) :
    (s.expectedTag C)[j]'(by simp; omega) = (s.aeadMac C)[j] := by
  simp [State.expectedTag_eq]

/-- The bytes of TAG are those of the tag, and 0 beyond it. -/
theorem wordByte_tagWords (T : ByteString) (j : Nat) (hj : j < 16) :
    wordByte (tagWords T)[j / 4] (j % 4) = T.getD j 0 := by
  have hget : (tagWords T)[j / 4] = le32 (T ++ zeros (16 - T.length)) (4 * (j / 4)) := by simp [tagWords, wordsOf]
  rw [hget, wordByte_le32 _ _ (by omega), Nat.div_add_mod, List.getD_eq_getElem?_getD,
    List.getD_eq_getElem?_getD]
  by_cases h : j < T.length
  · rw [List.getElem?_append_left h]
  · rw [List.getElem?_append_right (by omega), List.getElem?_eq_none (l := T) (by omega)]
    by_cases hz : j - T.length < 16 - T.length
    · simp [zeros, hz]
    · simp [zeros, hz]

/-! ### SEAL (rule R237) -/

/-- Byte j of the ciphertext. -/
theorem State.getElem_sealBody (s : State) (j : Nat) (hj : j < s.sealBody.length) :
    s.sealBody[j] = s.mbufByte (s.src.val + j) ^^^ s.aeadKeystream j := by
  have hjr : j < (s.memRead s.src.val s.len.val).length := by simpa using hj
  refine (getElem_xks _ _ j hjr).trans ?_
  rw [State.getElem_memRead, s.keyByte_aeadSetup]

/-- Settles O35: ciphertext and tag are one string at DST, and TAG holds the tag. -/
theorem sealResult : Obligations.SealResult := by
  intro s hf hts hp
  have hm : s.sealEffect.complete.mbuf = s.memWrite s.dst.val (s.sealBody ++ s.expectedTag s.sealBody) := rfl
  have hC := s.length_sealBody
  have hT := s.length_expectedTag s.sealBody
  have hl : (s.sealBody ++ s.expectedTag s.sealBody).length = s.len.val + s.ts := by
    rw [List.length_append]; omega
  refine ⟨s.sealBody, _, exec_of_passes hf hp, hC, fun j hj => ⟨s.getElem_sealBody j hj, ?body⟩,
    fun j h16 hj => ?tag, fun a ha => ?outside, fun j h16 => ?tagRegister, rfl⟩
  case body =>
    refine (State.mbufByte_memWrite_inside hm j (by omega)).trans ?_
    exact List.getElem_append_left hj
  case tag =>
    rw [Nat.add_assoc]
    refine (State.mbufByte_memWrite_inside hm (s.len.val + j) (by omega)).trans ?_
    rw [List.getElem_append_right (by omega)]
    simp only [hC, Nat.add_sub_cancel_left]
    exact s.getElem_expectedTag _ j hj h16
  case outside => exact State.mbufByte_memWrite_outside hm rfl (by omega)
  case tagRegister =>
    refine (wordByte_tagWords _ j h16).trans ?_
    rw [List.getD_eq_getElem?_getD]
    split
    · rw [List.getElem?_eq_getElem (by omega), s.getElem_expectedTag _ j ‹_› h16]; rfl
    · rw [List.getElem?_eq_none (by omega)]; rfl

/-! ### OPEN (rules R235, R238, R240) -/

/-- A message is authentic exactly when it holds a tag and each of its TS bytes is the MAC's. -/
theorem State.authentic_iff (s : State) (hts : s.ts ≤ 16) :
    s.authentic = true ↔ s.ts ≤ s.len.val ∧ ∀ j (_ : j < 16), j < s.ts →
      s.mbufByte (s.src.val + (s.len.val - s.ts) + j)
        = (s.aeadMac (s.memRead s.src.val (s.len.val - s.ts)))[j] := by
  have hlen : (s.expectedTag s.openBody).length = s.ts := by rw [State.length_expectedTag]; omega
  have hopen : s.openTag.length = s.ts := by simp [State.openTag]
  rw [State.authentic, Bool.and_eq_true, decide_eq_true_iff,
    tagComparisonIsEquality _ _ _ hopen.ge hlen.ge]
  refine and_congr_right fun _ => forall_congr' fun j => ?_
  have hj (hj : j < s.ts) (h16 : j < 16) : (s.openTag[j]? = (s.expectedTag s.openBody)[j]? ↔
      s.mbufByte (s.src.val + (s.len.val - s.ts) + j)
        = (s.aeadMac (s.memRead s.src.val (s.len.val - s.ts)))[j]) := by
    rw [List.getElem?_eq_getElem (by omega), List.getElem?_eq_getElem (by omega), Option.some.injEq,
      s.getElem_expectedTag _ j hj h16]
    simp [State.openTag, State.openBody, State.openBodyLen_eq]
  exact ⟨fun h h16 hlt => (hj hlt h16).1 (h hlt), fun h hlt => (hj hlt (by omega)).2 (h (by omega) hlt)⟩

/-- Settles O36: an authentic message's body is streamed to DST. -/
theorem openAcceptsTheRightTag : Obligations.OpenAcceptsTheRightTag := by
  intro s hf hts hp hlen C htag
  have hx := exec_of_passes hf hp
  have heff := s.openEffect_accepts ((s.authentic_iff hts).2 ⟨hlen, htag⟩)
  rw [State.effectOf, heff] at hx
  have hl : (xks (aeadSetup s.ak.toList (s.nonceBytes 12)).1 s.openBody).1.length = s.len.val - s.ts := by
    simp [State.openBodyLen_eq]
  refine ⟨_, hx, fun j hj => ?_, fun a ha => ?_, rfl⟩
  · refine (State.mbufByte_memWrite_inside rfl j (by omega)).trans ?_
    rw [getElem_xks _ _ j (by rw [State.length_openBody, State.openBodyLen_eq]; exact hj), s.keyByte_aeadSetup]
    simp [State.openBody]
  · exact State.mbufByte_memWrite_outside rfl rfl (by omega)

/-- Settles O37: a short message or a wrong byte is not authentic, and the failing path writes no byte. -/
theorem openRejectsAnyOtherMessage : Obligations.OpenRejectsAnyOtherMessage := by
  intro s hf hts hp hbad
  have hrej : s.authentic = false := by
    rw [← Bool.not_eq_true, s.authentic_iff hts]
    rintro ⟨hlen, htag⟩
    rcases hbad with hshort | ⟨j, h16, hj, hne⟩
    · omega
    · exact hne (htag j h16 hj)
  rw [exec_of_passes hf hp, State.effectOf, s.openEffect_rejects hrej]
  rfl

/-- Settles O38: the MAC and the keystream of the two states are the same, so the tag is right and the second XOR
undoes the first. -/
theorem sealThenOpenRoundTrip : Obligations.SealThenOpenRoundTrip := by
  intro s t u hf hts hp ht huf hup hmac hak huts hnonce hlen hmsg haad
  obtain ⟨C, t', ht', hC, hbody, htag, -, -, -⟩ := sealResult s hf hts hp
  cases ht'.symm.trans ht
  have hbodyLen : u.len.val - u.ts = s.len.val := by omega
  have hread : u.memRead u.src.val (u.len.val - u.ts) = C := by
    refine List.ext_getElem (by simp [hbodyLen, hC]) fun j h1 h2 => ?_
    rw [State.getElem_memRead, hmsg j (by omega), (hbody j h2).2]
  have hsame : u.aeadMac C = s.aeadMac C := by simp only [State.aeadMac, hmac, hak, hnonce, haad]
  have hstream (j : Nat) : u.aeadKeystream j = s.aeadKeystream j := by simp only [State.aeadKeystream, hak, hnonce]
  have hmacEq : u.aeadMac (u.memRead u.src.val (u.len.val - u.ts)) = s.aeadMac C := by rw [hread, hsame]
  have htag' (j : Nat) (h16 : j < 16) (hj : j < u.ts) : u.mbufByte (u.src.val + (u.len.val - u.ts) + j)
      = (u.aeadMac (u.memRead u.src.val (u.len.val - u.ts)))[j] := by
    refine Eq.trans ?_ (congrArg (·[j]) hmacEq).symm
    rw [hbodyLen, Nat.add_assoc, hmsg _ (by omega), ← Nat.add_assoc]
    exact htag j h16 (by omega)
  obtain ⟨v, hv, hplain, -, heq⟩ := openAcceptsTheRightTag u huf (by omega) hup (by omega) htag'
  refine ⟨v, hv, by rw [heq], fun j hj => ?_⟩
  obtain ⟨hcipher, hwritten⟩ := hbody j (by omega)
  rw [hplain j (by omega), hmsg j (by omega), hwritten, hcipher, hstream, BitVec.xor_assoc, BitVec.xor_self,
    BitVec.xor_zero]

end Sys2Proof.Machine
